-- ==== Sys2Proof/Word.lean ====
section
/-! DEFINITION. The word types of the core: the 8-bit cell, the 21-bit character, the 4-bit internal code and the
32-bit host word (spec/00_scope.md R9, spec/30_encoding.md R47 and R51, spec/10_state.md R23). -/

namespace Sys2Proof

/-- One tape cell, an unsigned 8-bit value (R9, R15); also one output value (R24). -/
abbrev Byte := BitVec 8

/-- One character of the source text as the decoder receives it: a 21-bit field (R47, D3). -/
abbrev CodePoint := BitVec 21

/-- The code under which the program store holds a decoded instruction (R51). -/
abbrev InternalCode := BitVec 4

/-- A word the host reads: STATUS and FAULT_INDEX (R23). -/
abbrev HostWord := BitVec 32

end Sys2Proof
end

