-- ==== Sys2Proof/Syntax.lean ====
section
/-! DEFINITION. The instruction type: the closed enumeration of nine variants (spec/30_encoding.md R45, R46). -/

namespace Sys2Proof

/-- The decoded instruction, one constructor per row of spec/opcode_table.json. No variant has a field, because no
instruction has an operand field (R47, R48). -/
inductive Instr where
  /-- MOVR, move-pointer-right (R68). -/
  | movr
  /-- MOVL, move-pointer-left (R69). -/
  | movl
  /-- INC, increment-cell (R70). -/
  | inc
  /-- DEC, decrement-cell (R71). -/
  | dec
  /-- OUT, output-cell (R73). -/
  | output
  /-- IN, input-cell, a no-op (R74). -/
  | input
  /-- OPEN, loop-open (R78). -/
  | loopOpen
  /-- CLOSE, loop-close (R79). -/
  | loopClose
  /-- NOP, the unknown variant: every other character (R65). -/
  | nop
  deriving DecidableEq, Repr, Inhabited

end Sys2Proof
end

