-- ==== Sys2Proof/WellFormed.lean ====
section
/-! DEFINITION. What the spec requires of data before the core may run with it. An instruction has no fields, so none
is ill formed (spec/30_encoding.md R47, R48, R52); the checks that can fail are on an internal code (R51) and on a
configuration (spec/70_reset_and_hazards.md R101). -/

namespace Sys2Proof

/-- No encoding is illegal or reserved (R52) and no instruction has a field to check (R48): each of the nine variants
is well formed. -/
def Instr.wellFormed : Instr → Bool
  | .movr => true
  | .movl => true
  | .inc => true
  | .dec => true
  | .output => true
  | .input => true
  | .loopOpen => true
  | .loopClose => true
  | .nop => true

/-- The internal codes the decoder produces are `0x0 .. 0x8`; `0x9 .. 0xF` never occur (R51, I9). -/
def codeLegal (code : InternalCode) : Bool :=
  decide (code.toNat ≤ 8)

/-- `N >= 1`; construction with `N = 0` is refused (R7, R101, D6). -/
def tapeSizeLegal (n : Nat) : Bool :=
  decide (0 < n)

/-- `L <= LMAX`; a longer program does not fit the store (R8, R101, D7). -/
def programFits (length capacity : Nat) : Bool :=
  decide (length ≤ capacity)

/-- The configurations with which the core may enter RUN (R101). -/
def configLegal (n length capacity : Nat) : Bool :=
  tapeSizeLegal n && programFits length capacity

end Sys2Proof
end

