-- ==== Sys2Proof/Decode.lean ====
section
/-! DEFINITION. The decoder, the encoder and the internal codes (spec/30_encoding.md R49, R50, R51), and the reading of
an opcode-table word. -/

namespace Sys2Proof

/-- `decode(c)`, the opcode map of R50. It is total over all `2^21` inputs: every value that is none of the eight
opcode characters is NOP, surrogates and values above the last scalar value included (R49, R52). The characters are
the spec's, three of them and all code point numbers from general knowledge there (D4; log 14). -/
def decode (c : CodePoint) : Instr :=
  if c = 0x3E#21 then .movr
  else if c = 0x3C#21 then .movl
  else if c = 0x2B#21 then .inc
  else if c = 0x2D#21 then .dec
  else if c = 0x2E#21 then .output
  else if c = 0x2C#21 then .input
  else if c = 0x5B#21 then .loopOpen
  else if c = 0x5D#21 then .loopClose
  else .nop

/-- The decoder applied "to every character of source_text in order" (R49, R100). -/
def decodeSource (source : List CodePoint) : List Instr :=
  source.map decode

/-- The character that spells an instruction (R50). NOP has no character of its own; NUL stands for it
(DESIGN CHOICE, log 15). -/
def encode : Instr → CodePoint
  | .movr => 0x3E#21
  | .movl => 0x3C#21
  | .inc => 0x2B#21
  | .dec => 0x2D#21
  | .output => 0x2E#21
  | .input => 0x2C#21
  | .loopOpen => 0x5B#21
  | .loopClose => 0x5D#21
  | .nop => 0x00#21

/-- The 4-bit internal code of a variant (R51, D5). -/
def Instr.code : Instr → InternalCode
  | .nop => 0x0#4
  | .movr => 0x1#4
  | .movl => 0x2#4
  | .inc => 0x3#4
  | .dec => 0x4#4
  | .output => 0x5#4
  | .input => 0x6#4
  | .loopOpen => 0x7#4
  | .loopClose => 0x8#4

/-- The variant an internal code stands for; none for `0x9 .. 0xF`, which a model of codes refuses (R51, I9). -/
def instrOfCode (code : InternalCode) : Option Instr :=
  if code = 0x0#4 then some .nop
  else if code = 0x1#4 then some .movr
  else if code = 0x2#4 then some .movl
  else if code = 0x3#4 then some .inc
  else if code = 0x4#4 then some .dec
  else if code = 0x5#4 then some .output
  else if code = 0x6#4 then some .input
  else if code = 0x7#4 then some .loopOpen
  else if code = 0x8#4 then some .loopClose
  else none

/-- The instruction read from a word of spec/opcode_table.json: its low `nbits` bits are the character. A value that
does not fit the 21-bit field is no character and is refused (log 16). -/
def decodeTableWord (nbits w : Nat) : Option Instr :=
  if w % 2 ^ nbits < 2 ^ 21 then some (decode (BitVec.ofNat 21 (w % 2 ^ nbits))) else none

end Sys2Proof
end

