-- ==== Sys2Proof/Config.lean ====
section
/-! DEFINITION. What an implementation fixes, and the values the spec leaves free. -/

namespace Sys2Proof

/-- The reference configuration of the tape, `N = 131072` (spec/00_scope.md R7). Statements hold for every `N`;
this number is only what `State.reset` holds (log 1). -/
def Config.referenceTapeSize : Nat := 131072

/-- The store capacity `LMAX` that `State.reset` holds. The spec leaves `LMAX` OPEN (R8, D7); this is the largest
capacity whose program indices fit the 32-bit FAULT_INDEX word of R23. DESIGN CHOICE, log 2. -/
def Config.chosenCapacity : Nat := 4294967295

/-- FREE VALUE: the entry at a program index that nothing has loaded since the last reset. R99 and I8 say the content
is unspecified; `fill` tells one reset's content from another's (log 4). -/
opaque Config.unloadedEntry (fill index : Nat) : Instr

/-- FREE VALUE: the FAULT_INDEX word for a program index that does not fit 32 bits, for which R23 states no value
(log 9). -/
opaque Config.wideFaultIndexWord (index : Nat) : HostWord

end Sys2Proof
end

