-- ==== Sys2Proof/Machine/State.lean ====
section
/-! DEFINITION. The architectural state (spec/10_state.md R13), the reasons a step stops, and the state after reset. -/

namespace Sys2Proof.Machine

/-- The tape as a list of (address, byte) cells in canonical form: addresses strictly rising, no entry equal to what an
unlisted address reads as (`Memory.wf` in Machine/Ops.lean). -/
abbrev Memory := List Host.Cell

/-- The program store as the list of the entries loaded so far, indices strictly rising (R14, R100). -/
abbrev Store := List (Nat × Instr)

/-- The four run states of R20. -/
inductive RunStatus where
  /-- Constructed (reset), not started. -/
  | idle
  /-- The fetch-execute loop is running. -/
  | run
  /-- Normal termination: a fetch found `pc >= L`. -/
  | halt
  /-- Stopped by a backward-scan underflow. -/
  | fault
  deriving DecidableEq, Repr

/-- The cause of a FAULT (R21). The reserved values 2 and 3 are never written, so they have no constructor. -/
inductive Cause where
  /-- NONE, code 0. -/
  | noCause
  /-- UNMATCHED_CLOSE, code 1. -/
  | unmatchedClose
  deriving DecidableEq, Repr

/-- The state tuple of R13, with the store capacity `LMAX` (R8) and the model's own `storeFill` (log 4). -/
structure State where
  /-- `N`, the tape size, taken from `cfg_tape_size` at reset (R7). -/
  tapeSize : Nat
  /-- `LMAX`, the capacity of the program store (R8, D7). -/
  capacity : Nat
  /-- `L`, the program length, sampled from `prog_len` at `start` (R8, R30). -/
  progLen : Nat
  /-- `prog`, the entries loaded since the last reset (R14). -/
  store : Store
  /-- The model's own field: which unspecified content the entries not loaded have (R99, I8; log 4). -/
  storeFill : Nat
  /-- `tape` (R15). -/
  tape : Memory
  /-- `dp`, the data pointer (R16). -/
  dp : Nat
  /-- `pc`, the program counter (R18). -/
  pc : Nat
  /-- `status` (R20). -/
  status : RunStatus
  /-- `cause` (R21). -/
  cause : Cause
  /-- `fault_index` (R22). -/
  faultIndex : Nat
  /-- `out`, the output events so far, oldest first (R24). -/
  out : List Byte
  deriving DecidableEq, Repr

/-- Why no next state exists. The hardware's own FAULT is a state (`RunStatus.fault`), not one of these. -/
inductive Fault where
  /-- Raised by `step` in IDLE: no step is enabled, the core waits for `start` (R62). Safe: nothing runs (log 5). -/
  | idle
  /-- Raised by `step` in HALT: the run has ended (R62). Safe (log 5). -/
  | halted
  /-- Raised by `step` in FAULT: the run has ended (R62, R92). Safe (log 5). -/
  | faulted
  /-- Raised by a tape access at an address `>= N`, which does not exist (R33). Safe, and unreachable by R17 (log 6). -/
  | noSuchCell (address : Nat)
  deriving DecidableEq, Repr

/-- What the model refuses. -/
inductive Refusal where
  /-- An arm of `exec` whose instruction has no meaning yet. No arm raises it. Safe. -/
  | notModelled (mnemonic : String)
  /-- Raised by reset and construction with `N = 0` (R101). Safe. -/
  | zeroTapeSize
  /-- Raised by construction with `L > LMAX` (R101). Safe. -/
  | programTooLong (length capacity : Nat)
  deriving DecidableEq, Repr

/-- The machine right after `rst` in the reference configuration (R31, R99): IDLE, tape all zero, `dp = pc = 0`, no
output, nothing loaded. The program is loaded from outside (log 13). -/
def State.reset : State where
  tapeSize := Config.referenceTapeSize
  capacity := Config.chosenCapacity
  progLen := 0
  store := []
  storeFill := 0
  tape := []
  dp := 0
  pc := 0
  status := .idle
  cause := .noCause
  faultIndex := 0
  out := []

end Sys2Proof.Machine
end

