-- ==== Sys2Proof/Machine/Ops.lean ====
section
/-! DEFINITION. The named operations over the state: the tape, the program store, the registers, the pointer and cell
arithmetic, and taking the one exception. -/

namespace Sys2Proof.Machine

/-! ### Sparse lists with natural-number keys -/

/-- The value listed at a key. -/
def sparseLookup {α : Type} : List (Nat × α) → Nat → Option α
  | [], _ => none
  | (b, v) :: rest, a => if b = a then some v else sparseLookup rest a

/-- The list with `v` at key `a`, keys kept rising. -/
def sparseInsert {α : Type} : List (Nat × α) → Nat → α → List (Nat × α)
  | [], a, v => [(a, v)]
  | (b, w) :: rest, a, v =>
    if a < b then (a, v) :: (b, w) :: rest
    else if a = b then (a, v) :: rest
    else (b, w) :: sparseInsert rest a v

/-- The list with nothing at key `a`. -/
def sparseErase {α : Type} (l : List (Nat × α)) (a : Nat) : List (Nat × α) :=
  l.filter fun e => decide (e.1 ≠ a)

/-- Keys strictly rising. -/
abbrev sparseRising {α : Type} (l : List (Nat × α)) : Prop :=
  l.Pairwise fun x y => x.1 < y.1

/-! ### The tape (R15, R33, R34) -/

/-- What a tape cell holds that nothing has written: 0 (R15, R31). -/
def Memory.unlisted : Byte := 0#8

/-- One cell of the tape. -/
def Memory.read (m : Memory) (a : Nat) : Byte :=
  (sparseLookup m a).getD Memory.unlisted

/-- The tape with `v` at address `a`, in canonical form. -/
def Memory.write (m : Memory) (a : Nat) (v : Byte) : Memory :=
  if v = Memory.unlisted then sparseErase m a else sparseInsert m a v

/-- The canonical form: addresses strictly rising, no entry equal to what an unlisted address reads as. -/
abbrev Memory.wf (m : Memory) : Prop :=
  sparseRising m ∧ ∀ c ∈ m, c.2 ≠ Memory.unlisted

/-! ### The program store (R14, R35) -/

/-- The entry loaded at a program index, if any. -/
def Store.read (st : Store) (i : Nat) : Option Instr :=
  sparseLookup st i

/-- The store with an entry loaded at a program index. -/
def Store.write (st : Store) (i : Nat) (instr : Instr) : Store :=
  sparseInsert st i instr

/-- Indices strictly rising. -/
abbrev Store.wf (st : Store) : Prop :=
  sparseRising st

/-- `prog[i]` (R35): the loaded entry, and a free value where nothing has been loaded (R99, I8; log 4). -/
def State.entry (s : State) (i : Nat) : Instr :=
  (s.store.read i).getD (Config.unloadedEntry s.storeFill i)

/-! ### Register writes (R11) -/

/-- `pc <- v`. -/
def State.setPc (s : State) (v : Nat) : State := { s with pc := v }

/-- `dp <- v`. -/
def State.setDp (s : State) (v : Nat) : State := { s with dp := v }

/-- `status <- v`. -/
def State.setStatus (s : State) (v : RunStatus) : State := { s with status := v }

/-- The tape replaced. -/
def State.setTape (s : State) (m : Memory) : State := { s with tape := m }

/-- The program store replaced. -/
def State.setStore (s : State) (st : Store) : State := { s with store := st }

/-- `L` replaced. -/
def State.setProgLen (s : State) (l : Nat) : State := { s with progLen := l }

/-- `emit(v)`: `out <- out ++ [v]` (R11, R73). -/
def State.emit (s : State) (v : Byte) : State := { s with out := s.out ++ [v] }

/-- The advance of the fetch: `pc <- pc + 1`, before execution (R58). -/
def State.advance (s : State) : State := s.setPc (s.pc + 1)

/-- The halting step's effect: `status <- HALT` and nothing else (R57). -/
def State.haltRun (s : State) : State := s.setStatus .halt

/-! ### Tape accesses (R33, R34) -/

/-- The tape cell at an address; at `N` or above there is none, and this is only what the tape lists (log 6, log 21). -/
def State.cell (s : State) (a : Nat) : Byte := s.tape.read a

/-- `MemRead(a, 1)`: hands the cell to `k`; an address outside the tape does not exist and stops (R33, log 6). -/
def memRead (s : State) (a : Nat) (k : Byte → Host.Outcome State Fault Refusal) :
    Host.Outcome State Fault Refusal :=
  if a < s.tapeSize then k (s.cell a) else .fault (.noSuchCell a)

/-- `MemWrite(a, 1, v)`: sets the one cell; an address outside the tape does not exist and stops (R34, log 6). -/
def memWrite (s : State) (a : Nat) (v : Byte) : Host.Outcome State Fault Refusal :=
  if a < s.tapeSize then .next (s.setTape (s.tape.write a v)) else .fault (.noSuchCell a)

/-! ### Arithmetic (R66, R67) -/

/-- MOVR's pointer arithmetic, in the form of R68. -/
def pointerRight (n d : Nat) : Nat := if d + 1 = n then 0 else d + 1

/-- MOVL's pointer arithmetic, in the form of R69. -/
def pointerLeft (n d : Nat) : Nat := if d = 0 then n - 1 else d - 1

/-- `(v + 1) mod 256` (R67, R70). -/
def cellIncrement (v : Byte) : Byte := BitVec.ofNat 8 ((v.toNat + 1) % 256)

/-- `(v + 255) mod 256` (R67, R71). -/
def cellDecrement (v : Byte) : Byte := BitVec.ofNat 8 ((v.toNat + 255) % 256)

/-! ### Taking the exception (R87). There is no return from it: FAULT is terminal (R91, R92). -/

/-- `raise UnmatchedClose(c)`: FAULT, the cause, the index, and `pc` at the faulting CLOSE; tape, `dp` and `out`
unchanged. -/
def State.raiseUnmatchedClose (s : State) (c : Nat) : State :=
  { s with status := .fault, cause := .unmatchedClose, faultIndex := c, pc := c }

end Sys2Proof.Machine
end

