-- ==== Sys2Proof/Machine/Construction.lean ====
section
/-! DEFINITION. Reset, program load, start and construction (spec/70_reset_and_hazards.md R99 to R101,
spec/40_fetch_execute.md R56, spec/10_state.md R31). -/

namespace Sys2Proof.Machine

/-- The state `rst` leaves with `cfg_tape_size = n` (R99). Nothing of the run survives (R102): only the hardware's
capacity stays, and `storeFill` moves on, so that the unspecified store content is new (log 4). -/
def State.afterReset (s : State) (n : Nat) : State :=
  { State.reset with tapeSize := n, capacity := s.capacity, storeFill := s.storeFill + 1 }

/-- `rst` with `cfg_tape_size = n`; `N = 0` is refused (R99, R101). -/
def resetCore (n : Nat) (s : State) : Host.Outcome State Fault Refusal :=
  if tapeSizeLegal n then .next (s.afterReset n) else .refused .zeroTapeSize

/-- One `prog_we`: in IDLE, at an address below `LMAX`, `prog[addr] <- decode(char)`; otherwise ignored (R30, R100,
R101). -/
def loadEntry (addr : Nat) (char : CodePoint) (s : State) : State :=
  if s.status = .idle ∧ addr < s.capacity then s.setStore (s.store.write addr (decode char)) else s

/-- `start` with `prog_len = len`: in IDLE with a legal configuration the core samples `L` and enters RUN; otherwise
nothing changes (R30, R56, R101; log 18). -/
def startRun (len : Nat) (s : State) : State :=
  if s.status = .idle ∧ configLegal s.tapeSize len s.capacity = true then
    (s.setProgLen len).setStatus .run
  else s

/-- The characters of a source text loaded at rising addresses from `addr` (R100). -/
def loadSource : Nat → List CodePoint → State → State
  | _, [], s => s
  | addr, c :: rest, s => loadSource (addr + 1) rest (loadEntry addr c s)

/-- The source's `new(tape_size, source_text)`: reset, then load (R31, R99, R100); the two configurations of R101 are
refused. -/
def construct (n : Nat) (source : List CodePoint) (s : State) : Host.Outcome State Fault Refusal :=
  if tapeSizeLegal n = false then .refused .zeroTapeSize
  else if programFits source.length s.capacity = false then
    .refused (.programTooLong source.length s.capacity)
  else .next ((loadSource 0 source (s.afterReset n)).setProgLen source.length)

/-- An instruction placed where the next step fetches: at `pc`, inside the program, with the core in RUN. It stands for
the load and the start (log 13). -/
def State.placeInstruction (s : State) (i : Instr) : State :=
  ((s.setStore (s.store.write s.pc i)).setProgLen (max s.progLen (s.pc + 1))).setStatus .run

end Sys2Proof.Machine
end

