-- ==== Sys2Proof/Machine/Flags.lean ====
section
/-! DEFINITION. The core has no flags and no condition codes (spec/10_state.md R26): no instruction writes one. The only
condition any instruction tests is whether the current cell is zero, read when OPEN or CLOSE executes. -/

namespace Sys2Proof.Machine

/-- The condition of OPEN and CLOSE: the cell is zero (R26, R78, R79). -/
def cellIsZero (v : Byte) : Bool := decide (v = 0#8)

end Sys2Proof.Machine
end

