-- ==== Sys2Proof/Machine/Operands.lean ====
section
/-! DEFINITION. The operand forms. Every operand is implicit (spec/30_encoding.md R48), and the one data addressing mode
is the current cell, with effective address `dp` and no modification of it (spec/41_tape_pointer.md R72). -/

namespace Sys2Proof.Machine

/-- The effective address of the one addressing mode (R72). -/
def effectiveAddress (s : State) : Nat := s.dp

/-- Reads the current cell once and hands it to `k`. -/
def withCurrentCell (s : State) (k : Byte → Host.Outcome State Fault Refusal) :
    Host.Outcome State Fault Refusal :=
  memRead s (effectiveAddress s) k

/-- The read-modify-write of INC and DEC on the current cell (R38). -/
def updateCurrentCell (f : Byte → Byte) (s : State) : Host.Outcome State Fault Refusal :=
  withCurrentCell s fun v => memWrite s (effectiveAddress s) (f v)

end Sys2Proof.Machine
end

