-- ==== Sys2Proof/Machine/Cell.lean ====
section
/-! DEFINITION. INC and DEC (spec/41_tape_pointer.md R70, R71). -/

namespace Sys2Proof.Machine

/-- INC: "wrapping unsigned 8-bit add of 1" on the current cell (R70). -/
def execInc (s : State) : Host.Outcome State Fault Refusal :=
  updateCurrentCell cellIncrement s

/-- DEC: "wrapping unsigned 8-bit subtract of 1" on the current cell (R71). -/
def execDec (s : State) : Host.Outcome State Fault Refusal :=
  updateCurrentCell cellDecrement s

end Sys2Proof.Machine
end

