-- ==== Sys2Proof/Machine/InputOutput.lean ====
section
/-! DEFINITION. OUT and IN (spec/42_io.md R73, R74). -/

namespace Sys2Proof.Machine

/-- OUT: the current cell is appended to `out` within the step (R73). The wait for `out_ready` is at the ports
(`PortEvent.turn`, log 11). -/
def execOutput (s : State) : Host.Outcome State Fault Refusal :=
  withCurrentCell s fun v => .next (s.emit v)

/-- IN: "recognized as an instruction but intentionally does nothing" (R74). -/
def execInput (s : State) : Host.Outcome State Fault Refusal :=
  .next s

end Sys2Proof.Machine
end

