-- ==== Sys2Proof/Machine/Loops.lean ====
section
/-! DEFINITION. OPEN and CLOSE with the lazy bracket matcher (spec/43_loops.md R78, R79). The scans run at every
execution and are never precomputed (spec/00_scope.md R3). -/

namespace Sys2Proof.Machine

/-- The forward scan of R78 from `pc` at nesting depth `depth`. The first number counts the indices left below `L`;
at 0 the scan has run off and leaves `pc` there. A match leaves `pc` at the CLOSE. -/
def scanForward (entry : Nat → Instr) : Nat → Nat → Nat → Nat
  | 0, pc, _ => pc
  | left + 1, pc, depth =>
    match entry pc with
    | .loopOpen => scanForward entry left (pc + 1) (depth + 1)
    | .loopClose => if depth = 0 then pc else scanForward entry left (pc + 1) (depth - 1)
    | .movr | .movl | .inc | .dec | .output | .input | .nop => scanForward entry left (pc + 1) depth

/-- The backward scan of R79. The first number is how many indices are still to be visited, the highest first: with
`k + 1` left the scan visits index `k`. A match answers the OPEN's index; 0 left is the underflow. -/
def scanBackward (entry : Nat → Instr) : Nat → Nat → Option Nat
  | 0, _ => none
  | k + 1, depth =>
    match entry k with
    | .loopClose => scanBackward entry k (depth + 1)
    | .loopOpen => if depth = 0 then some k else scanBackward entry k (depth - 1)
    | .movr | .movl | .inc | .dec | .output | .input | .nop => scanBackward entry k depth

/-- OPEN's jump: `pc` at the matching CLOSE, or at `L` after a run-off (R78, D13). -/
def jumpForward (s : State) : State :=
  s.setPc (scanForward s.entry (s.progLen - s.pc) s.pc 0)

/-- The index of the CLOSE being executed: `pc` holds index plus one (R12, R79; log 10 for `pc = 0`). -/
def closeIndex (s : State) : Nat := s.pc - 1

/-- CLOSE's jump: `pc` at the matching OPEN, or UnmatchedClose (R79, R87). The scan visits `c - 1` down to 0, never `c`. -/
def jumpBackward (s : State) : State :=
  match scanBackward s.entry (closeIndex s) 0 with
  | some k => s.setPc k
  | none => s.raiseUnmatchedClose (closeIndex s)

/-- OPEN: enters the body on a non-zero cell, else scans forward (R78). -/
def execLoopOpen (s : State) : Host.Outcome State Fault Refusal :=
  withCurrentCell s fun v => if cellIsZero v then .next (jumpForward s) else .next s

/-- CLOSE: leaves the loop on a zero cell, else scans backward (R79). -/
def execLoopClose (s : State) : Host.Outcome State Fault Refusal :=
  withCurrentCell s fun v => if cellIsZero v then .next s else .next (jumpBackward s)

end Sys2Proof.Machine
end

