-- ==== Sys2Proof/Machine/Pointer.lean ====
section
/-! DEFINITION. MOVR and MOVL (spec/41_tape_pointer.md R68, R69). -/

namespace Sys2Proof.Machine

/-- MOVR: "pointer += 1; if pointer would equal tape length, wrap to 0" (R68). -/
def execMovr (s : State) : Host.Outcome State Fault Refusal :=
  .next (s.setDp (pointerRight s.tapeSize s.dp))

/-- MOVL: "pointer -= 1; if pointer is 0 before decrement, wrap to `tape.length - 1`" (R69). -/
def execMovl (s : State) : Host.Outcome State Fault Refusal :=
  .next (s.setDp (pointerLeft s.tapeSize s.dp))

end Sys2Proof.Machine
end

