-- ==== Sys2Proof/Machine/Unknown.lean ====
section
/-! DEFINITION. NOP, the unknown variant (spec/40_fetch_execute.md R65). -/

namespace Sys2Proof.Machine

/-- NOP: nothing; `pc` already holds index plus one from the fetch (R65). -/
def execNop (s : State) : Host.Outcome State Fault Refusal :=
  .next s

end Sys2Proof.Machine
end

