-- ==== Sys2Proof/Machine/Dispatch.lean ====
section
/-! DEFINITION. `execute(i)`: the exhaustive match on the nine variants (spec/40_fetch_execute.md R59). -/

namespace Sys2Proof.Machine

/-- `execute(i)` on a state whose `pc` the fetch has already advanced (R58, R59). -/
def exec (i : Instr) (s : State) : Host.Outcome State Fault Refusal :=
  match i with
  | .movr => Sys2Proof.Machine.execMovr s
  | .movl => Sys2Proof.Machine.execMovl s
  | .inc => Sys2Proof.Machine.execInc s
  | .dec => Sys2Proof.Machine.execDec s
  | .output => Sys2Proof.Machine.execOutput s
  | .input => Sys2Proof.Machine.execInput s
  | .loopOpen => Sys2Proof.Machine.execLoopOpen s
  | .loopClose => Sys2Proof.Machine.execLoopClose s
  | .nop => Sys2Proof.Machine.execNop s

end Sys2Proof.Machine
end

