-- ==== Sys2Proof/Machine/Fetch.lean ====
section
/-! DEFINITION. The fetch-execute step (spec/40_fetch_execute.md R57, R58, R62). -/

namespace Sys2Proof.Machine

/-- The step in RUN: the termination test first (R57), else fetch, advance by one and execute (R58). -/
def runStep (s : State) : Host.Outcome State Fault Refusal :=
  if s.progLen ≤ s.pc then .next s.haltRun else exec (s.entry s.pc) s.advance

/-- One step. None is enabled in IDLE, HALT and FAULT, which the model answers with a stop under a name of its own
(R62, log 5). -/
def fetchExecute (s : State) : Host.Outcome State Fault Refusal :=
  match s.status with
  | .idle => .fault .idle
  | .run => runStep s
  | .halt => .fault .halted
  | .fault => .fault .faulted

end Sys2Proof.Machine
end

