-- ==== Sys2Proof/Machine/Step.lean ====
section
/-! DEFINITION. The machine's step, and the placing of an opcode-table word where it fetches. -/

namespace Sys2Proof.Machine

/-- One architectural step: one whole instruction, bracket scan included (spec/00_scope.md R6, R60). -/
def step (s : State) : Host.Outcome State Fault Refusal :=
  fetchExecute s

/-- `s` with the instruction of an opcode-table word placed where the next step fetches; a word that is no character
places nothing (log 13, log 16). -/
def State.withFetchWord (s : State) (nbits w : Nat) : State :=
  match decodeTableWord nbits w with
  | some i => s.placeInstruction i
  | none => s

end Sys2Proof.Machine
end

