-- ==== Sys2Proof/Machine/Ports.lean ====
section
/-! DEFINITION. The ports (spec/10_state.md R30), the words the host reads (R23), and what each input does. -/

namespace Sys2Proof.Machine

/-- The 2-bit STATE field (R20). -/
def RunStatus.code : RunStatus → BitVec 2
  | .idle => 0#2
  | .run => 1#2
  | .halt => 2#2
  | .fault => 3#2

/-- The 2-bit CAUSE field (R21). -/
def Cause.code : Cause → BitVec 2
  | .noCause => 0#2
  | .unmatchedClose => 1#2

/-- The STATUS word: STATE in bits 1..0, CAUSE in bits 3..2, bits 31..4 hardwired 0 (R23). -/
def State.statusWord (s : State) : HostWord :=
  0#28 ++ s.cause.code ++ s.status.code

/-- The FAULT_INDEX word: `zext_32(fault_index)` (R23); a free value where the index does not fit (log 9). -/
def State.faultIndexWord (s : State) : HostWord :=
  if s.faultIndex < 2 ^ 32 then BitVec.ofNat 32 s.faultIndex else Config.wideFaultIndexWord s.faultIndex

/-- `out_valid` and `out_data`: the event offered while the core is at an OUT in RUN (R30, R73). DESIGN CHOICE, unsafe:
with `dp >= N`, where R33 gives no value and R17 lets no run come, it offers what the tape lists (log 21). -/
def State.outOffer (s : State) : Option Byte :=
  if s.status = .run ∧ s.pc < s.progLen ∧ s.entry s.pc = .output then some (s.cell s.dp) else none

/-- What the host sees of the core: the output so far and the two words (R63, R97, D22). -/
structure Observation where
  /-- The output events, oldest first. -/
  out : List Byte
  /-- The STATUS word. -/
  statusWord : HostWord
  /-- The FAULT_INDEX word. -/
  faultIndexWord : HostWord
  deriving DecidableEq, Repr

/-- The observable result (R63). -/
def State.observe (s : State) : Observation :=
  { out := s.out, statusWord := s.statusWord, faultIndexWord := s.faultIndexWord }

/-- One event at the ports. Events land one at a time, between steps (log 8). -/
inductive PortEvent where
  /-- `rst` asserted with `cfg_tape_size = n`. -/
  | reset (n : Nat)
  /-- `prog_we` with `prog_addr` and `prog_char`. -/
  | load (addr : Nat) (char : CodePoint)
  /-- `start` with `prog_len`. -/
  | start (len : Nat)
  /-- The host writes to the STATUS word. -/
  | writeStatus (w : HostWord)
  /-- The host writes to the FAULT_INDEX word. -/
  | writeFaultIndex (w : HostWord)
  /-- The core's own turn, with the level of `out_ready`. -/
  | turn (outReady : Bool)
  deriving DecidableEq, Repr

/-- The core's turn: an OUT waits while `out_ready` is low (R73, R106); every other step runs. The wait does not ask
`dp < N` (log 21). -/
def turnCore (outReady : Bool) (s : State) : Host.Outcome State Fault Refusal :=
  if outReady = false ∧ s.outOffer.isSome = true then .next s else step s

/-- What an event at the ports does (R23, R30, R56, R99, R100, R104). -/
def onEvent (e : PortEvent) (s : State) : Host.Outcome State Fault Refusal :=
  match e with
  | .reset n => resetCore n s
  | .load addr char => .next (loadEntry addr char s)
  | .start len => .next (startRun len s)
  | .writeStatus _ => .next s
  | .writeFaultIndex _ => .next s
  | .turn outReady => turnCore outReady s

/-- A sequence of events at the ports. -/
def runEvents : List PortEvent → State → Host.Outcome State Fault Refusal
  | [], s => .next s
  | e :: rest, s =>
    match onEvent e s with
    | .next t => runEvents rest t
    | .fault f => .fault f
    | .refused r => .refused r

/-- The load protocol for a source text: one `prog_we` per character, at rising addresses (R100). -/
def loadEvents : Nat → List CodePoint → List PortEvent
  | _, [] => []
  | addr, c :: rest => .load addr c :: loadEvents (addr + 1) rest

end Sys2Proof.Machine
end

