-- ==== Sys2Proof/Safety.lean ====
section
/-! DEFINITION. The terms claims are stated in: the matching functions of spec/43_loops.md R77, the invariant of
spec/10_state.md, the end of a run, repeated execution, and the iterations of a loop. -/

namespace Sys2Proof.Machine

/-- `#X[a, b)`: how many indices `k` with `a <= k < b` hold `X` (R77). -/
def countIn (entry : Nat → Instr) (x : Instr) (a b : Nat) : Nat :=
  (List.range' a (b - a)).countP fun k => decide (entry k = x)

/-- `prog[j]` is a CLOSE and the OPENs and CLOSEs in `[s, j)` are equally many (R77). -/
def ClosesFrom (entry : Nat → Instr) (s j : Nat) : Prop :=
  entry j = .loopClose ∧ countIn entry .loopOpen s j = countIn entry .loopClose s j

/-- `fwd(s) = j`: the least such `j` with `s <= j < L` (R77). -/
def IsForwardMatch (entry : Nat → Instr) (L s j : Nat) : Prop :=
  s ≤ j ∧ j < L ∧ ClosesFrom entry s j ∧ ∀ i, s ≤ i → i < j → ¬ ClosesFrom entry s i

/-- `prog[k]` is an OPEN and the CLOSEs and OPENs in `[k+1, c)` are equally many (R77). -/
def OpensTo (entry : Nat → Instr) (c k : Nat) : Prop :=
  entry k = .loopOpen ∧ countIn entry .loopClose (k + 1) c = countIn entry .loopOpen (k + 1) c

/-- `bwd(c) = k`: the greatest such `k` with `k < c` (R77). -/
def IsBackwardMatch (entry : Nat → Instr) (c k : Nat) : Prop :=
  k < c ∧ OpensTo entry c k ∧ ∀ i, k < i → i < c → ¬ OpensTo entry c i

/-- A run ends when `status` becomes HALT or FAULT (R63). -/
def State.ended (s : State) : Prop := s.status = .halt ∨ s.status = .fault

/-- A safe step: one that answers a next state. -/
def SafeStep (s : State) : Prop := ∃ t, step s = .next t

/-- The brackets of the program text: the two variants the scans count (R76). -/
def isBracket (i : Instr) : Prop := i = .loopOpen ∨ i = .loopClose

/-- An instruction executed `k` times in a row, each on the state the one before left. -/
def repeatExec (i : Instr) : Nat → State → Host.Outcome State Fault Refusal
  | 0, s => .next s
  | k + 1, s =>
    match exec i s with
    | .next t => repeatExec i k t
    | .fault f => .fault f
    | .refused r => .refused r

/-- `k` steps lead from `u` to `v` at the CLOSE at `c`, the core still in RUN, and every step before stays in the body,
strictly between the OPEN at `o` and that CLOSE. -/
def BodyRun (o c : Nat) : Nat → State → State → Prop
  | 0, u, v => u = v ∧ v.pc = c ∧ v.status = .run
  | k + 1, u, v => o < u.pc ∧ u.pc < c ∧ ∃ w, step u = .next w ∧ BodyRun o c k w v

/-- The run from `s` to `t` is `n` whole iterations of the loop from the OPEN at `o` to the CLOSE at `c`: each executes
the OPEN, which enters the body, then the body, then the CLOSE (R78, R79). -/
def LoopIterations (o c : Nat) : Nat → State → State → Prop
  | 0, s, t => s = t
  | n + 1, s, t => s.pc = o ∧ ∃ b k v u, step s = .next b ∧ b.pc = o + 1 ∧ BodyRun o c k b v ∧
      step v = .next u ∧ LoopIterations o c n u t

/-- The states reached from reset by events at the ports, whatever the host does and whatever the capacity `LMAX`. -/
def Reachable (s : State) : Prop :=
  ∃ capacity events, runEvents events { State.reset with capacity := capacity } = .next s

/-- What holds between steps in every reachable state (R15 to R22, R31, R101). -/
structure StateInv (s : State) : Prop where
  /-- `N >= 1` (R7). -/
  tapeSize_pos : 0 < s.tapeSize
  /-- `L <= LMAX` (R8). -/
  progLen_le : s.progLen ≤ s.capacity
  /-- `0 <= dp < N` (R17). -/
  dp_lt : s.dp < s.tapeSize
  /-- `0 <= pc <= L` (R18). -/
  pc_le : s.pc ≤ s.progLen
  /-- The tape is in canonical form. -/
  tape_wf : s.tape.wf
  /-- The tape lists only cells it has (R15). -/
  tape_bounded : ∀ c ∈ s.tape, c.1 < s.tapeSize
  /-- The store's indices rise. -/
  store_wf : s.store.wf
  /-- The store lists only indices it has (R101). -/
  store_bounded : ∀ e ∈ s.store, e.1 < s.capacity
  /-- In IDLE everything holds its reset value (R31, R56). -/
  idle_reset : s.status = .idle → s.tape = [] ∧ s.dp = 0 ∧ s.pc = 0 ∧ s.out = []
  /-- HALT is reached only with `pc` at the program's end (R20, R57). -/
  halt_end : s.status = .halt → s.pc = s.progLen
  /-- `cause` is NONE whenever `status` is not FAULT, and `fault_index` keeps its reset value (R21, R22). -/
  no_cause : s.status ≠ .fault → s.cause = .noCause ∧ s.faultIndex = 0
  /-- A FAULT names a CLOSE of the program, at which `pc` stands, on a non-zero cell (R22, R87). -/
  fault_at_close : s.status = .fault → s.cause = .unmatchedClose ∧ s.faultIndex = s.pc ∧ s.pc < s.progLen ∧
    s.entry s.pc = .loopClose ∧ s.cell s.dp ≠ 0#8

end Sys2Proof.Machine
end

