-- ==== Sys2Proof/Certificates/Slice0/Obligations.lean ====
section
/-! DEFINITION. The statements put to the provers. Each docstring names the rules of spec/ it formalises. -/

open Sys2Proof Sys2Proof.Machine

/-! ### Encoding -/

/-- R50: the opcode map, row by row, over every 21-bit character. -/
def Obligations.DecoderIsTheOpcodeMap : Prop :=
  ∀ c : CodePoint,
    (decode c = .movr ↔ c = 0x3E#21) ∧ (decode c = .movl ↔ c = 0x3C#21) ∧
    (decode c = .inc ↔ c = 0x2B#21) ∧ (decode c = .dec ↔ c = 0x2D#21) ∧
    (decode c = .output ↔ c = 0x2E#21) ∧ (decode c = .input ↔ c = 0x2C#21) ∧
    (decode c = .loopOpen ↔ c = 0x5B#21) ∧ (decode c = .loopClose ↔ c = 0x5D#21) ∧
    (decode c = .nop ↔ c ∉ [0x3E#21, 0x3C#21, 0x2B#21, 0x2D#21, 0x2E#21, 0x2C#21, 0x5B#21, 0x5D#21])

/-- A few words of the opcode table, read as the host reads them, and the vectors V-DEC-ch9 to V-DEC-ch14. -/
def Obligations.DecodeSanityWords : Prop :=
  decodeTableWord 24 0x3E = some .movr ∧ decodeTableWord 24 0x3C = some .movl ∧
  decodeTableWord 24 0x2B = some .inc ∧ decodeTableWord 24 0x2E = some .output ∧
  decodeTableWord 24 0x5B = some .loopOpen ∧ decodeTableWord 24 0x5D = some .loopClose ∧
  decodeTableWord 24 0x00 = some .nop ∧ decodeTableWord 24 0x7B = some .nop ∧
  decodeTableWord 24 0xFF3B = some .nop ∧ decodeTableWord 24 0x1FFFFF = some .nop ∧
  decodeTableWord 24 0x2F = some .nop

/-- Decoding an instruction's character gives it back, and a character of an opcode is the only one with its
instruction, so no bit of an encoding is dropped. NOP's own character is the model's choice (log 15). -/
def Obligations.EncodeAndDecodeAgree : Prop :=
  (∀ i : Instr, i.wellFormed = true →
    decode (encode i) = i ∧ decodeTableWord 21 (encode i).toNat = some i) ∧
  ∀ c : CodePoint, decode c ≠ .nop → encode (decode c) = c

/-- R51: the nine internal codes; the decoder produces no other, and `0x9 .. 0xF` stand for nothing. -/
def Obligations.InternalCodesAreTheTable : Prop :=
  (Instr.code .nop = 0x0#4 ∧ Instr.code .movr = 0x1#4 ∧ Instr.code .movl = 0x2#4 ∧
    Instr.code .inc = 0x3#4 ∧ Instr.code .dec = 0x4#4 ∧ Instr.code .output = 0x5#4 ∧
    Instr.code .input = 0x6#4 ∧ Instr.code .loopOpen = 0x7#4 ∧ Instr.code .loopClose = 0x8#4) ∧
  (∀ c : CodePoint, (decode c).code.toNat ≤ 8) ∧
  (∀ i : Instr, instrOfCode i.code = some i) ∧
  ∀ code : InternalCode, 9 ≤ code.toNat → instrOfCode code = none

/-- R52: a character that is none of the eight opcode characters takes a slot of the program and, when executed, only
advances `pc`. -/
def Obligations.CommentCharacterOnlyAdvances : Prop :=
  ∀ (c : CodePoint) (s : State),
    c ∉ [0x3E#21, 0x3C#21, 0x2B#21, 0x2D#21, 0x2E#21, 0x2C#21, 0x5B#21, 0x5D#21] →
    s.status = .run → s.pc < s.progLen → s.store.read s.pc = some (decode c) →
    step s = .next { s with pc := s.pc + 1 }

/-! ### Reset, load and start -/

/-- R99: `rst` with `N >= 1`, in any state. No step reads the store before the load, because none is enabled. -/
def Obligations.ResetEventGivesResetState : Prop :=
  ∀ (n : Nat) (s : State), 0 < n →
    ∃ t, onEvent (.reset n) s = .next t ∧ t.tapeSize = n ∧ (∀ a, t.cell a = 0#8) ∧
      t.dp = 0 ∧ t.pc = 0 ∧ t.status = .idle ∧ t.cause = .noCause ∧ t.faultIndex = 0 ∧
      t.out = [] ∧ t.outOffer = none ∧ ∀ u, step t ≠ .next u

/-- R102, R90: no state survives reset. Resets of any two cores of one capacity leave the same state, but for which
unspecified content the store is left with (the model's `storeFill`, log 4). -/
def Obligations.ResetForgetsTheRun : Prop :=
  ∀ (n : Nat) (s u t v : State), s.capacity = u.capacity →
    onEvent (.reset n) s = .next t → onEvent (.reset n) u = .next v →
    t = { v with storeFill := t.storeFill } ∧ t.store = []

/-- The model's reset state has the values R31 gives. `N = 131072` is the reference configuration of R7, which the
model's reset state takes (log 1). -/
def Obligations.ResetStateHoldsSpecValues : Prop :=
  State.reset.tapeSize = 131072 ∧ (∀ a, State.reset.cell a = 0#8) ∧ State.reset.dp = 0 ∧
  State.reset.pc = 0 ∧ State.reset.status = .idle ∧ State.reset.cause = .noCause ∧
  State.reset.faultIndex = 0 ∧ State.reset.out = []

/-- R31: the state after construction, element by element. -/
def Obligations.ConstructionGivesTheResetTable : Prop :=
  ∀ (n : Nat) (source : List CodePoint) (s : State), 0 < n → source.length ≤ s.capacity →
    ∃ t, construct n source s = .next t ∧ t.tapeSize = n ∧ t.progLen = source.length ∧
      (∀ i c, source[i]? = some c → t.entry i = decode c) ∧ (∀ a, t.cell a = 0#8) ∧
      t.dp = 0 ∧ t.pc = 0 ∧ t.status = .idle ∧ t.cause = .noCause ∧ t.faultIndex = 0 ∧ t.out = []

/-- Construction is reset followed by the load protocol, and `start` then enters RUN and changes nothing else
(R99, R100, R103, R56). That `start` samples `L` then is log 18. -/
def Obligations.ConstructionRefinesLoadProtocol : Prop :=
  ∀ (n : Nat) (source : List CodePoint) (s : State), 0 < n → source.length ≤ s.capacity →
    ∃ t, construct n source s = .next t ∧
      runEvents (.reset n :: (loadEvents 0 source ++ [.start source.length])) s =
        .next { t with status := .run }

/-- R100, R30, R101: `prog_we` stores the decoded character in IDLE below `LMAX`, and is ignored elsewhere. -/
def Obligations.LoadStoresDecodedCharacter : Prop :=
  ∀ (addr : Nat) (c : CodePoint) (s : State),
    (s.status = .idle → addr < s.capacity →
      ∃ t, onEvent (.load addr c) s = .next t ∧ t.entry addr = decode c ∧
        (∀ i, i ≠ addr → t.entry i = s.entry i) ∧ t = { s with store := t.store }) ∧
    (s.status ≠ .idle ∨ s.capacity ≤ addr → onEvent (.load addr c) s = .next s)

/-- R56 with R30: `start` in IDLE samples `L` and enters RUN (log 18); in any other state it has no effect. -/
def Obligations.StartEntersRun : Prop :=
  ∀ (len : Nat) (s : State),
    (s.status = .idle → 0 < s.tapeSize → len ≤ s.capacity →
      onEvent (.start len) s = .next { s with status := .run, progLen := len }) ∧
    (s.status ≠ .idle → onEvent (.start len) s = .next s)

/-- R101: the two refused configurations, and the ignored writes and starts. R101 gives the refusal to the construction
function; that the reset EVENT with `N = 0` is refused by name too is the model's choice (log 12). -/
def Obligations.IllegalConfigurationsAreRefused : Prop :=
  (∀ s : State, onEvent (.reset 0) s = .refused .zeroTapeSize) ∧
  (∀ (source : List CodePoint) (s : State), construct 0 source s = .refused .zeroTapeSize) ∧
  (∀ (n : Nat) (source : List CodePoint) (s : State), 0 < n → s.capacity < source.length →
    construct n source s = .refused (.programTooLong source.length s.capacity)) ∧
  (∀ (addr : Nat) (c : CodePoint) (s : State), s.capacity ≤ addr → onEvent (.load addr c) s = .next s) ∧
  (∀ (len : Nat) (s : State), s.status = .idle → s.capacity < len → onEvent (.start len) s = .next s) ∧
  (∀ (e : PortEvent) (s t : State), onEvent e s = .next t → s.status ≠ .run → t.status = .run →
    0 < t.tapeSize ∧ t.progLen ≤ t.capacity)

/-! ### The step -/

/-- R57: the termination test comes first, sets HALT and changes nothing else. -/
def Obligations.StepHaltsAtProgramEnd : Prop :=
  ∀ s : State, s.status = .run → s.progLen ≤ s.pc → step s = .next { s with status := .halt }

/-- R58: below `L` the step fetches, advances `pc` by one and executes the decoded instruction; at `L` or beyond it
sets HALT. -/
def Obligations.StepRunsDecodedInstruction : Prop :=
  ∀ s : State, s.status = .run →
    (s.pc < s.progLen → step s = exec (s.entry s.pc) { s with pc := s.pc + 1 }) ∧
    (∀ c : CodePoint, s.pc < s.progLen → s.store.read s.pc = some (decode c) →
      step s = exec (decode c) { s with pc := s.pc + 1 }) ∧
    (s.progLen ≤ s.pc → step s = .next { s with status := .halt })

/-- R62: no step is enabled outside RUN; IDLE waits for `start`; only reset leaves HALT and FAULT. -/
def Obligations.NoStepOutsideRun : Prop :=
  (∀ s t : State, s.status ≠ .run → step s ≠ .next t) ∧
  (∀ (e : PortEvent) (s t : State), s.status = .idle → onEvent e s = .next t → t.status ≠ .idle →
    ∃ len, e = .start len) ∧
  (∀ (e : PortEvent) (s t : State), s.ended → (∀ n, e ≠ .reset n) → onEvent e s = .next t → t = s) ∧
  (∀ (len : Nat) (s : State), s.ended → onEvent (.start len) s = .next s)

/-- R20: the encoding of `status`, its reset value, and every event that changes it. -/
def Obligations.StatusChangesOnlyAsRuled : Prop :=
  (RunStatus.code .idle = 0#2 ∧ RunStatus.code .run = 1#2 ∧ RunStatus.code .halt = 2#2 ∧
    RunStatus.code .fault = 3#2) ∧
  State.reset.status = .idle ∧
  ∀ (e : PortEvent) (s t : State), onEvent e s = .next t → t.status ≠ s.status →
    (t.status = .idle ∧ ∃ n, e = .reset n) ∨
    (s.status = .idle ∧ t.status = .run ∧ ∃ len, e = .start len) ∨
    (s.status = .run ∧ t.status = .halt ∧ s.progLen ≤ s.pc ∧ ∃ ready, e = .turn ready) ∨
    (s.status = .run ∧ t.status = .fault ∧ s.pc < s.progLen ∧ s.entry s.pc = .loopClose ∧
      s.cell s.dp ≠ 0#8 ∧ (∀ k, ¬ IsBackwardMatch s.entry s.pc k) ∧ ∃ ready, e = .turn ready)

/-- R19: what `pc` holds at the end of a step. -/
def Obligations.StepLeavesPcAsRuled : Prop :=
  ∀ s t : State, s.status = .run → s.pc < s.progLen → step s = .next t →
    (¬ isBracket (s.entry s.pc) → t.pc = s.pc + 1) ∧
    (s.entry s.pc = .loopOpen → s.cell s.dp ≠ 0#8 → t.pc = s.pc + 1) ∧
    (s.entry s.pc = .loopClose → s.cell s.dp = 0#8 → t.pc = s.pc + 1) ∧
    (∀ j, s.entry s.pc = .loopOpen → s.cell s.dp = 0#8 →
      IsForwardMatch s.entry s.progLen (s.pc + 1) j → t.pc = j ∧ s.entry j = .loopClose) ∧
    (s.entry s.pc = .loopOpen → s.cell s.dp = 0#8 →
      (∀ j, ¬ IsForwardMatch s.entry s.progLen (s.pc + 1) j) → t.pc = s.progLen) ∧
    (∀ k, s.entry s.pc = .loopClose → s.cell s.dp ≠ 0#8 →
      IsBackwardMatch s.entry s.pc k → t.pc = k ∧ s.entry k = .loopOpen) ∧
    (s.entry s.pc = .loopClose → s.cell s.dp ≠ 0#8 →
      (∀ k, ¬ IsBackwardMatch s.entry s.pc k) → t.pc = s.pc)

/-! ### The instructions, each with its encoding, its whole next state and its frame -/

/-- R68: MOVR. -/
def Obligations.MoveRightWrapsAtTapeEnd : Prop :=
  decode 0x3E#21 = .movr ∧ Instr.code .movr = 0x1#4 ∧
  ∀ s : State, exec .movr s =
    .next { s with dp := if s.dp + 1 = s.tapeSize then 0 else s.dp + 1 }

/-- R69: MOVL. -/
def Obligations.MoveLeftWrapsAtZero : Prop :=
  decode 0x3C#21 = .movl ∧ Instr.code .movl = 0x2#4 ∧
  ∀ s : State, exec .movl s =
    .next { s with dp := if s.dp = 0 then s.tapeSize - 1 else s.dp - 1 }

/-- R70: INC, with its frame: every cell but the current one, and every other element, is unchanged. -/
def Obligations.IncrementCurrentCell : Prop :=
  decode 0x2B#21 = .inc ∧ Instr.code .inc = 0x3#4 ∧
  ∀ s : State, s.dp < s.tapeSize →
    ∃ t, exec .inc s = .next t ∧
      (t.cell (effectiveAddress s)).toNat = ((s.cell s.dp).toNat + 1) % 256 ∧
      (∀ a, a ≠ effectiveAddress s → t.cell a = s.cell a) ∧ t = { s with tape := t.tape }

/-- R71: DEC, with its frame. -/
def Obligations.DecrementCurrentCell : Prop :=
  decode 0x2D#21 = .dec ∧ Instr.code .dec = 0x4#4 ∧
  ∀ s : State, s.dp < s.tapeSize →
    ∃ t, exec .dec s = .next t ∧
      (t.cell (effectiveAddress s)).toNat = ((s.cell s.dp).toNat + 255) % 256 ∧
      (∀ a, a ≠ effectiveAddress s → t.cell a = s.cell a) ∧ t = { s with tape := t.tape }

/-- R73: OUT appends the current cell and changes nothing else. At the port the value is offered, and the step waits
for `out_ready`. -/
def Obligations.OutputEmitsCurrentCell : Prop :=
  decode 0x2E#21 = .output ∧ Instr.code .output = 0x5#4 ∧
  (∀ s : State, s.dp < s.tapeSize →
    exec .output s = .next { s with out := s.out ++ [s.cell s.dp] }) ∧
  ∀ s : State, s.status = .run → s.pc < s.progLen → s.entry s.pc = .output → s.dp < s.tapeSize →
    s.outOffer = some (s.cell s.dp) ∧ onEvent (.turn false) s = .next s ∧
    onEvent (.turn true) s = .next { s with pc := s.pc + 1, out := s.out ++ [s.cell s.dp] }

/-- R74: IN does nothing, and the scans skip it as they skip NOP. -/
def Obligations.InputDoesNothing : Prop :=
  decode 0x2C#21 = .input ∧ Instr.code .input = 0x6#4 ∧
  (∀ s : State, exec .input s = .next s) ∧
  ∀ (entry : Nat → Instr) (left pc depth : Nat), entry pc = .input ∨ entry pc = .nop →
    scanForward entry (left + 1) pc depth = scanForward entry left (pc + 1) depth ∧
    scanBackward entry (pc + 1) depth = scanBackward entry pc depth

/-- R65: NOP does nothing; it is what every character outside the opcode map decodes to. A NOP at the last index leaves
`pc = L`, and the next step halts. -/
def Obligations.UnknownDoesNothing : Prop :=
  (∀ c : CodePoint, c ∉ [0x3E#21, 0x3C#21, 0x2B#21, 0x2D#21, 0x2E#21, 0x2C#21, 0x5B#21, 0x5D#21] →
    decode c = .nop) ∧
  Instr.code .nop = 0x0#4 ∧
  (∀ s : State, exec .nop s = .next s) ∧
  ∀ s : State, s.status = .run → s.pc + 1 = s.progLen → s.entry s.pc = .nop →
    step s = .next { s with pc := s.progLen } ∧
    step { s with pc := s.progLen } = .next { s with pc := s.progLen, status := .halt }

/-- R78: OPEN enters the body on a non-zero cell; on a zero cell `pc` becomes `fwd(o + 1)`, or `L` when that is none,
and nothing else changes. -/
def Obligations.OpenJumpsToForwardMatch : Prop :=
  decode 0x5B#21 = .loopOpen ∧ Instr.code .loopOpen = 0x7#4 ∧
  (∀ s : State, s.dp < s.tapeSize → s.cell s.dp ≠ 0#8 → exec .loopOpen s = .next s) ∧
  ∀ s : State, s.dp < s.tapeSize → s.cell s.dp = 0#8 → s.pc ≤ s.progLen →
    (∀ j, IsForwardMatch s.entry s.progLen s.pc j → exec .loopOpen s = .next { s with pc := j }) ∧
    ((∀ j, ¬ IsForwardMatch s.entry s.progLen s.pc j) →
      exec .loopOpen s = .next { s with pc := s.progLen })

/-- R79: CLOSE leaves the loop on a zero cell; on a non-zero cell `pc` becomes `bwd(c)`, and nothing else changes, or
UnmatchedClose(c) is raised when that is none. -/
def Obligations.CloseJumpsToBackwardMatch : Prop :=
  decode 0x5D#21 = .loopClose ∧ Instr.code .loopClose = 0x8#4 ∧
  (∀ s : State, s.dp < s.tapeSize → s.cell s.dp = 0#8 → exec .loopClose s = .next s) ∧
  ∀ (s : State) (c : Nat), s.pc = c + 1 → s.dp < s.tapeSize → s.cell s.dp ≠ 0#8 →
    (∀ k, IsBackwardMatch s.entry c k → exec .loopClose s = .next { s with pc := k }) ∧
    ((∀ k, ¬ IsBackwardMatch s.entry c k) →
      exec .loopClose s =
        .next { s with status := .fault, cause := .unmatchedClose, faultIndex := c, pc := c })

/-- Every instruction completes from every state whose data pointer is on the tape; the four that read no cell complete
from every state. -/
def Obligations.EveryInstructionCompletes : Prop :=
  (∀ (i : Instr) (s : State), s.dp < s.tapeSize → ∃ t, exec i s = .next t) ∧
  ∀ s : State, (∃ t, exec .movr s = .next t) ∧ (∃ t, exec .movl s = .next t) ∧
    (∃ t, exec .input s = .next t) ∧ ∃ t, exec .nop s = .next t

/-- A cell outside the tape does not exist: the instructions that read the current cell stop there by name (R33 lets a
model do so; log 6). -/
def Obligations.CellOutsideTapeStops : Prop :=
  ∀ (i : Instr) (s : State), s.tapeSize ≤ s.dp →
    i ∈ [.inc, .dec, .output, .loopOpen, .loopClose] → exec i s = .fault (.noSuchCell s.dp)

/-! ### Whole-machine frames -/

/-- What each element of the state can be written by, over all nine instructions. -/
def Obligations.InstructionsWriteOnlyTheirOwn : Prop :=
  ∀ (i : Instr) (s t : State), exec i s = .next t →
    (t.tapeSize = s.tapeSize ∧ t.capacity = s.capacity ∧ t.progLen = s.progLen ∧ t.store = s.store ∧
      t.storeFill = s.storeFill) ∧
    (i ≠ .movr → i ≠ .movl → t.dp = s.dp) ∧
    (i ≠ .inc → i ≠ .dec → t.tape = s.tape) ∧
    (∀ a, a ≠ effectiveAddress s → t.cell a = s.cell a) ∧
    (i ≠ .output → t.out = s.out) ∧
    (¬ isBracket i → t.pc = s.pc) ∧
    (i ≠ .loopClose → t.status = s.status ∧ t.cause = s.cause ∧ t.faultIndex = s.faultIndex)

/-- R34: MemWrite sets one cell and changes no other; only INC and DEC write the tape, at `dp`. -/
def Obligations.MemWriteSetsOneCell : Prop :=
  (∀ (s : State) (a : Nat) (v : Byte), a < s.tapeSize →
    ∃ t, memWrite s a v = .next t ∧ t.cell a = v ∧ (∀ b, b ≠ a → t.cell b = s.cell b) ∧
      t = { s with tape := t.tape }) ∧
  ∀ (i : Instr) (s t : State), exec i s = .next t → t.tape ≠ s.tape →
    (i = .inc ∨ i = .dec) ∧ ∀ b, b ≠ s.dp → t.cell b = s.cell b

/-- R43: after construction nothing but reset changes the program: no event, and so no step, outside IDLE. -/
def Obligations.ProgramNeverChangesWhileRunning : Prop :=
  ∀ (e : PortEvent) (s t : State), s.status ≠ .idle → (∀ n, e ≠ .reset n) → onEvent e s = .next t →
    t.entry = s.entry ∧ t.progLen = s.progLen

/-- R24: `out` starts empty; an OUT step appends exactly the current cell, no other step appends, and nothing but reset
removes a value. -/
def Obligations.OutputIsAppendOnly : Prop :=
  State.reset.out = [] ∧
  (∀ s t : State, step s = .next t →
    (s.pc < s.progLen → s.entry s.pc = .output → t.out = s.out ++ [s.cell s.dp]) ∧
    (s.progLen ≤ s.pc ∨ s.entry s.pc ≠ .output → t.out = s.out)) ∧
  ∀ (e : PortEvent) (s t : State), (∀ n, e ≠ .reset n) → onEvent e s = .next t →
    ∃ more, t.out = s.out ++ more

/-- No step reads the output already handed over: a different history gives the same step. -/
def Obligations.OutputHistoryIsNotRead : Prop :=
  ∀ (s t : State) (history : List Byte), step s = .next t →
    ∃ more, t.out = s.out ++ more ∧
      step { s with out := history } = .next { t with out := history ++ more }

/-- Only program entries below `L` are read: two stores that agree there step alike, so the unspecified content of
entries never loaded cannot be seen once the host has loaded `0 .. L-1`. It holds of every content, the model's free
value among them (log 4). -/
def Obligations.OnlyEntriesBelowLengthAreRead : Prop :=
  ∀ (s t : State) (store : Store) (fill : Nat),
    (∀ i, i < s.progLen → State.entry { s with store := store, storeFill := fill } i = s.entry i) →
    step s = .next t →
    step { s with store := store, storeFill := fill } =
      .next { t with store := store, storeFill := fill }

/-! ### Arithmetic -/

/-- R66: the pointer moves modulo `N`, and `N` moves either way return to the same pointer. -/
def Obligations.PointerIsCircular : Prop :=
  ∀ s : State, s.dp < s.tapeSize →
    exec .movr s = .next { s with dp := (s.dp + 1) % s.tapeSize } ∧
    exec .movl s = .next { s with dp := (s.dp + s.tapeSize - 1) % s.tapeSize } ∧
    repeatExec .movr s.tapeSize s = .next s ∧
    repeatExec .movl s.tapeSize s = .next s

/-- R67 with R70 and R71: INC and DEC undo each other, on the whole state. -/
def Obligations.IncrementAndDecrementAreInverse : Prop :=
  ∀ s : State, s.dp < s.tapeSize → s.tape.wf →
    (∃ t, exec .inc s = .next t ∧ exec .dec t = .next s) ∧
    (∃ t, exec .dec s = .next t ∧ exec .inc t = .next s)

/-! ### The bracket matcher -/

/-- R77: the scans of R78 and R79 compute the matching functions `fwd` and `bwd`. -/
def Obligations.ScansComputeTheMatchingFunctions : Prop :=
  (∀ (entry : Nat → Instr) (L s : Nat), s ≤ L →
    (∀ j, j < L → (scanForward entry (L - s) s 0 = j ↔ IsForwardMatch entry L s j)) ∧
    (scanForward entry (L - s) s 0 = L ↔ ∀ j, ¬ IsForwardMatch entry L s j)) ∧
  ∀ (entry : Nat → Instr) (c : Nat),
    (∀ k, scanBackward entry c 0 = some k ↔ IsBackwardMatch entry c k) ∧
    (scanBackward entry c 0 = none ↔ ∀ k, ¬ IsBackwardMatch entry c k)

/-- R82: matching is symmetric, in the terms of the scans the machine runs, which R77 makes `fwd` and `bwd`. -/
def Obligations.MatchingIsSymmetric : Prop :=
  (∀ (entry : Nat → Instr) (L o j : Nat), entry o = .loopOpen → j < L →
    scanForward entry (L - (o + 1)) (o + 1) 0 = j → scanBackward entry j 0 = some o) ∧
  ∀ (entry : Nat → Instr) (L c k : Nat), entry c = .loopClose → c < L →
    scanBackward entry c 0 = some k → scanForward entry (L - (k + 1)) (k + 1) 0 = c

/-- R80: after an OPEN finds its match, the next step executes that CLOSE, which goes just past the loop. -/
def Obligations.SkippedLoopEndsAfterItsClose : Prop :=
  ∀ (s : State) (j : Nat), s.status = .run → s.pc < s.progLen → s.entry s.pc = .loopOpen →
    s.dp < s.tapeSize → s.cell s.dp = 0#8 → IsForwardMatch s.entry s.progLen (s.pc + 1) j →
    step s = .next { s with pc := j } ∧ step { s with pc := j } = .next { s with pc := j + 1 }

/-- R81: after a CLOSE finds its match, the next step executes that OPEN again, which enters the body. -/
def Obligations.RepeatedLoopReentersAtItsOpen : Prop :=
  ∀ (s : State) (k : Nat), s.status = .run → s.pc < s.progLen → s.entry s.pc = .loopClose →
    s.dp < s.tapeSize → s.cell s.dp ≠ 0#8 → IsBackwardMatch s.entry s.pc k →
    step s = .next { s with pc := k } ∧ step { s with pc := k } = .next { s with pc := k + 1 }

/-- R83: the four cases of unbalanced brackets. -/
def Obligations.UnbalancedBracketCases : Prop :=
  ∀ s : State, s.status = .run → s.pc < s.progLen → s.dp < s.tapeSize →
    (s.entry s.pc = .loopOpen → (∀ j, ¬ IsForwardMatch s.entry s.progLen (s.pc + 1) j) →
      (s.cell s.dp = 0#8 → step s = .next { s with pc := s.progLen } ∧
        step { s with pc := s.progLen } = .next { s with pc := s.progLen, status := .halt }) ∧
      (s.cell s.dp ≠ 0#8 → step s = .next { s with pc := s.pc + 1 })) ∧
    (s.entry s.pc = .loopClose → (∀ k, ¬ IsBackwardMatch s.entry s.pc k) →
      (s.cell s.dp = 0#8 → step s = .next { s with pc := s.pc + 1 }) ∧
      (s.cell s.dp ≠ 0#8 → step s =
        .next { s with status := .fault, cause := .unmatchedClose, faultIndex := s.pc }))

/-- A run need not end (R64): an OPEN directly followed by its CLOSE, entered with a non-zero cell, runs on for any
number of steps, with no output and the tape unchanged. -/
def Obligations.EmptyLoopNeverEnds : Prop :=
  ∀ s : State, s.status = .run → s.pc + 1 < s.progLen → s.entry s.pc = .loopOpen →
    s.entry (s.pc + 1) = .loopClose → s.dp < s.tapeSize → s.cell s.dp ≠ 0#8 →
    ∀ k, ∃ t : State, Host.Core.run Sys2Proof.core k s = .next t ∧ t.status = .run ∧
      t.out = s.out ∧ t.tape = s.tape ∧ t.dp = s.dp

/-- The shortest loop of R84's second sentence: an OPEN, a DEC and a CLOSE in a row, entered with a non-zero cell, end
after exactly as many iterations as the cell's initial value: three steps an iteration, and then `pc` just past the CLOSE,
the cell 0, and everything else unchanged. `LoopsRunAsOftenAsTheirCellSays` is about every loop. -/
def Obligations.DecrementingLoopRunsItsCount : Prop :=
  ∀ s : State, s.status = .run → s.pc + 2 < s.progLen → s.entry s.pc = .loopOpen →
    s.entry (s.pc + 1) = .dec → s.entry (s.pc + 2) = .loopClose → s.dp < s.tapeSize → s.cell s.dp ≠ 0#8 →
    ∃ t : State, Host.Core.run Sys2Proof.core (3 * (s.cell s.dp).toNat) s = .next t ∧
      t.cell s.dp = 0#8 ∧ (∀ a, a ≠ s.dp → t.cell a = s.cell a) ∧
      t = { s with pc := s.pc + 3, tape := t.tape }

/-- R84, for every loop, an OPEN with its matching CLOSE at `c`. With the cell at zero the body is never executed:
the two steps go to the CLOSE and past it. With a body whose net effect on the controlling cell is one DEC and that ends
with the `dp` it began with, on every state in which the loop enters it (`Enters`, closed under an iteration), the run is
exactly as many iterations as the cell's initial value and then stands just past the CLOSE. -/
def Obligations.LoopsRunAsOftenAsTheirCellSays : Prop :=
  ∀ (s : State) (c : Nat), s.status = .run → s.pc < s.progLen → s.entry s.pc = .loopOpen →
    s.dp < s.tapeSize → IsForwardMatch s.entry s.progLen (s.pc + 1) c →
    (s.cell s.dp = 0#8 →
      step s = .next { s with pc := c } ∧ step { s with pc := c } = .next { s with pc := c + 1 }) ∧
    ∀ Enters : State → Prop, Enters { s with pc := s.pc + 1 } →
      (∀ b, Enters b → ∃ k v, BodyRun s.pc c k b v ∧ v.dp = b.dp ∧
        (v.cell v.dp).toNat + 1 = (b.cell b.dp).toNat ∧
        (v.cell v.dp ≠ 0#8 → Enters { v with pc := s.pc + 1 })) →
      ∃ t, LoopIterations s.pc c (s.cell s.dp).toNat s t ∧ t.status = .run ∧ t.pc = c + 1 ∧
        t.dp = s.dp ∧ t.cell t.dp = 0#8

/-! ### The exception -/

/-- R87: the effect of UnmatchedClose, `c = 0` included: FAULT, cause 1, the CLOSE's index in `fault_index` and in `pc`,
everything else unchanged, and no further step. -/
def Obligations.UnmatchedCloseStopsTheCore : Prop :=
  Cause.code .unmatchedClose = 1#2 ∧
  ∀ (s : State) (c : Nat), s.status = .run → s.pc = c → c < s.progLen → s.entry c = .loopClose →
    s.dp < s.tapeSize → s.cell s.dp ≠ 0#8 → (∀ k, ¬ IsBackwardMatch s.entry c k) →
    ∃ t, step s = .next t ∧
      t = { s with status := .fault, cause := .unmatchedClose, faultIndex := c, pc := c } ∧
      ∀ u, step t ≠ .next u

/-- R86, R88: nothing else raises. An execution leaves the run-control registers alone unless it is a CLOSE on a
non-zero cell without a backward match, which records its own index. -/
def Obligations.OnlyUnmatchedCloseRaises : Prop :=
  (Cause.code .noCause = 0#2 ∧ Cause.code .unmatchedClose = 1#2) ∧
  ∀ (i : Instr) (s t : State), exec i s = .next t →
    (t.status = s.status ∧ t.cause = s.cause ∧ t.faultIndex = s.faultIndex) ∨
    (i = .loopClose ∧ s.cell s.dp ≠ 0#8 ∧ (∀ k, ¬ IsBackwardMatch s.entry (closeIndex s) k) ∧
      t.status = .fault ∧ t.cause = .unmatchedClose ∧ t.faultIndex = closeIndex s)

/-- R91: the fault is precise. The state it leaves is the state before the step, `pc` at the faulting CLOSE, with only
the fault fields written. -/
def Obligations.FaultIsPrecise : Prop :=
  ∀ s t : State, step s = .next t → t.status = .fault →
    s.entry s.pc = .loopClose ∧
    t = { s with status := .fault, cause := .unmatchedClose, faultIndex := s.pc }

/-! ### What the host sees -/

/-- R23: the layout of STATUS and FAULT_INDEX, their reset values, and that host writes have no effect. The index is
one that fits the word. -/
def Obligations.StatusWordsAsLaidOut : Prop :=
  (∀ s : State, s.statusWord.extractLsb' 0 2 = s.status.code ∧
    s.statusWord.extractLsb' 2 2 = s.cause.code ∧ s.cause.code.toNat ≤ 1 ∧
    s.statusWord.extractLsb' 4 28 = 0#28 ∧
    (s.faultIndex < 2 ^ 32 → s.faultIndexWord.toNat = s.faultIndex)) ∧
  State.reset.statusWord = 0#32 ∧ State.reset.faultIndexWord = 0#32 ∧
  ∀ (w : HostWord) (s : State), onEvent (.writeStatus w) s = .next s ∧
    onEvent (.writeFaultIndex w) s = .next s

/-- R106: the wait for the sink is the only wait, and it only delays. An OUT in RUN below `L` offers its event, waits
while `out_ready` is low, the state as it is, and, however long it waited, gives the result it gives at once. At any other
entry, at `L` or beyond, and outside RUN no event is offered, and `out_ready` does not matter. That it offers and
waits with `dp >= N` too, where no run comes (R17), is the model's choice (log 21). -/
def Obligations.OutReadyOnlyDelays : Prop :=
  ∀ s : State, onEvent (.turn true) s = step s ∧
    (s.status = .run → s.pc < s.progLen → s.entry s.pc = .output →
      s.outOffer ≠ none ∧ onEvent (.turn false) s = .next s ∧
      ∀ k, runEvents (List.replicate k (.turn false) ++ [.turn true]) s = step s) ∧
    (s.status ≠ .run ∨ s.progLen ≤ s.pc ∨ s.entry s.pc ≠ .output →
      s.outOffer = none ∧ onEvent (.turn false) s = step s)

/-! ### Invariants -/

/-- The invariant holds at reset. -/
def Obligations.ResetMeetsTheInvariant : Prop := StateInv State.reset

/-- Every step keeps the invariant, from every state that meets it. -/
def Obligations.StepKeepsTheInvariant : Prop :=
  ∀ s t : State, StateInv s → step s = .next t → StateInv t

/-- Every event at the ports keeps the invariant: reset, load, start, host writes and the core's turn. -/
def Obligations.PortEventsKeepTheInvariant : Prop :=
  ∀ (e : PortEvent) (s t : State), StateInv s → onEvent e s = .next t → StateInv t

/-- R17: `0 <= dp < N` in every reachable state, for every host and every `LMAX`. -/
def Obligations.DataPointerStaysOnTheTape : Prop :=
  ∀ s : State, Reachable s → s.dp < s.tapeSize

/-- `0 <= pc <= L` in every state between steps that is reachable (R18, C3), and HALT only at `pc = L` (R57). -/
def Obligations.ProgramCounterStaysInProgram : Prop :=
  ∀ s : State, Reachable s → s.pc ≤ s.progLen ∧ (s.status = .halt → s.pc = s.progLen)

/-- In every reachable state the fault registers tell the fault: NONE and 0 outside FAULT (R21, R22); in FAULT the cause
is UNMATCHED_CLOSE and the index is that of a CLOSE of the program, where `pc` stands. -/
def Obligations.FaultRegistersTellTheFault : Prop :=
  ∀ s : State, Reachable s →
    (s.status ≠ .fault → s.cause = .noCause ∧ s.faultIndex = 0) ∧
    (s.status = .fault → s.cause = .unmatchedClose ∧ s.faultIndex = s.pc ∧ s.pc < s.progLen ∧
      s.entry s.faultIndex = .loopClose)

/-- A reachable running core always has a next step: every instruction of every program executes, and only HALT and
FAULT end a run (R62, R63, R86). -/
def Obligations.ReachableRunNeverSticks : Prop :=
  ∀ s : State, Reachable s → s.status = .run →
    ∃ t, step s = .next t ∧ (t.status = .run ∨ t.ended)
end

