-- ==== Sys2Proof/Laws/Memory.lean ====
section
/-! SUPPORT. What the tape and the program store answer after a write, and that their operations keep the canonical
form (spec/20_memory.md R33, R34, R35). -/

namespace Sys2Proof.Machine

section Sparse

variable {α : Type} {l : List (Nat × α)} {a b : Nat} {v : α}

theorem sparseLookup_insert_self (l : List (Nat × α)) (a : Nat) (v : α) :
    sparseLookup (sparseInsert l a v) a = some v := by
  induction l with
  | nil => simp [sparseInsert, sparseLookup]
  | cons head rest ih =>
    obtain ⟨b, w⟩ := head
    unfold sparseInsert
    split
    · simp [sparseLookup]
    · split
      · simp [sparseLookup]
      · rename_i hne
        simp [sparseLookup, Ne.symm hne, ih]

theorem sparseLookup_insert_of_ne (h : b ≠ a) :
    sparseLookup (sparseInsert l a v) b = sparseLookup l b := by
  induction l with
  | nil => simp [sparseInsert, sparseLookup, Ne.symm h]
  | cons head rest ih =>
    obtain ⟨c, w⟩ := head
    unfold sparseInsert
    split
    · simp [sparseLookup, Ne.symm h]
    · split
      · rename_i hac
        subst hac
        simp [sparseLookup, Ne.symm h]
      · simp [sparseLookup, ih]

theorem sparseLookup_erase_self (l : List (Nat × α)) (a : Nat) :
    sparseLookup (sparseErase l a) a = none := by
  induction l with
  | nil => rfl
  | cons head rest ih =>
    obtain ⟨b, w⟩ := head
    by_cases hb : b = a
    · simpa [sparseErase, hb] using ih
    · simpa [sparseErase, hb, sparseLookup] using ih

theorem sparseLookup_erase_of_ne (h : b ≠ a) :
    sparseLookup (sparseErase l a) b = sparseLookup l b := by
  induction l with
  | nil => rfl
  | cons head rest ih =>
    obtain ⟨c, w⟩ := head
    by_cases hc : c = a
    · subst hc
      simpa [sparseErase, sparseLookup, Ne.symm h] using ih
    · simp only [sparseErase, ne_eq, hc, not_false_eq_true, decide_true, List.filter_cons_of_pos,
        sparseLookup] at ih ⊢
      rw [ih]

/-- A member of an insertion is the new entry or an old one. -/
theorem mem_sparseInsert {e : Nat × α} (h : e ∈ sparseInsert l a v) : e = (a, v) ∨ e ∈ l := by
  induction l with
  | nil => exact .inl (by simpa [sparseInsert] using h)
  | cons head rest ih =>
    obtain ⟨b, w⟩ := head
    unfold sparseInsert at h
    split at h
    · simpa using h
    · split at h
      · rcases List.mem_cons.mp h with h | h
        · exact .inl h
        · exact .inr (List.mem_cons_of_mem _ h)
      · rcases List.mem_cons.mp h with h | h
        · exact .inr (h ▸ List.mem_cons_self)
        · exact (ih h).imp_right (List.mem_cons_of_mem _)

theorem mem_of_mem_sparseErase {e : Nat × α} (h : e ∈ sparseErase l a) : e ∈ l :=
  (List.mem_filter.mp h).1

theorem sparseRising_insert (h : sparseRising l) : sparseRising (sparseInsert l a v) := by
  induction l with
  | nil => simp [sparseInsert]
  | cons head rest ih =>
    obtain ⟨b, w⟩ := head
    obtain ⟨hhead, hrest⟩ := List.pairwise_cons.mp h
    unfold sparseInsert
    split
    · rename_i hab
      refine List.pairwise_cons.mpr ⟨fun e he => ?_, h⟩
      rcases List.mem_cons.mp he with rfl | he
      · exact hab
      · exact hab.trans (hhead e he)
    · split
      · rename_i hab
        subst hab
        exact List.pairwise_cons.mpr ⟨hhead, hrest⟩
      · rename_i hlt hne
        refine List.pairwise_cons.mpr ⟨fun e he => ?_, ih hrest⟩
        rcases mem_sparseInsert he with rfl | he
        · have : a ≠ b := hne
          have : ¬ a < b := hlt
          show b < a
          omega
        · exact hhead e he

theorem sparseRising_erase (h : sparseRising l) : sparseRising (sparseErase l a) :=
  h.filter _

/-- A lookup that answers found a member. -/
theorem mem_of_sparseLookup (h : sparseLookup l a = some v) : (a, v) ∈ l := by
  induction l with
  | nil => simp [sparseLookup] at h
  | cons head rest ih =>
    obtain ⟨b, w⟩ := head
    unfold sparseLookup at h
    split at h
    · rename_i hb
      simp_all
    · exact List.mem_cons_of_mem _ (ih h)

/-- In a rising list every member is what the lookup of its key answers. -/
theorem sparseLookup_of_mem (hl : sparseRising l) (h : (a, v) ∈ l) : sparseLookup l a = some v := by
  induction l with
  | nil => simp at h
  | cons head rest ih =>
    obtain ⟨b, w⟩ := head
    obtain ⟨hhead, hrest⟩ := List.pairwise_cons.mp hl
    rcases List.mem_cons.mp h with h | h
    · simp [sparseLookup, (Prod.mk.inj h).1, (Prod.mk.inj h).2]
    · have : b < a := hhead _ h
      simp [sparseLookup, this.ne, ih hrest h]

/-- Two rising lists with the same lookups are the same list. -/
theorem sparse_ext {l' : List (Nat × α)} (hl : sparseRising l) (hl' : sparseRising l')
    (h : ∀ a, sparseLookup l a = sparseLookup l' a) : l = l' := by
  have hperm : l.Perm l' := by
    have nodup {m : List (Nat × α)} (hm : sparseRising m) : m.Nodup :=
      hm.imp fun {x y} hxy heq => by subst heq; exact lt_irrefl _ hxy
    refine (List.perm_ext_iff_of_nodup (nodup hl) (nodup hl')).mpr fun e => ?_
    obtain ⟨a, v⟩ := e
    exact ⟨fun he => mem_of_sparseLookup ((h a).symm.trans (sparseLookup_of_mem hl he)),
      fun he => mem_of_sparseLookup ((h a).trans (sparseLookup_of_mem hl' he))⟩
  exact hperm.eq_of_pairwise (fun x y _ _ hxy hyx => absurd (lt_trans hxy hyx) (lt_irrefl _)) hl hl'

end Sparse

/-! ### The tape -/

section Tape

variable {m : Memory} {a b : Nat} {v : Byte}

@[simp] theorem Memory.read_nil (a : Nat) : Memory.read [] a = Memory.unlisted := rfl

@[simp] theorem Memory.read_write_self (m : Memory) (a : Nat) (v : Byte) : (m.write a v).read a = v := by
  unfold Memory.read Memory.write
  split
  · rename_i hv
    simp [sparseLookup_erase_self, hv]
  · simp [sparseLookup_insert_self]

theorem Memory.read_write_of_ne (h : b ≠ a) : (m.write a v).read b = m.read b := by
  unfold Memory.read Memory.write
  split
  · rw [sparseLookup_erase_of_ne h]
  · rw [sparseLookup_insert_of_ne h]

/-- A write keeps the canonical form. -/
theorem Memory.wf_write (h : m.wf) : (m.write a v).wf := by
  unfold Memory.write
  split
  · exact ⟨sparseRising_erase h.1, fun c hc => h.2 c (mem_of_mem_sparseErase hc)⟩
  · rename_i hv
    refine ⟨sparseRising_insert h.1, fun c hc => ?_⟩
    rcases mem_sparseInsert hc with rfl | hc
    · exact hv
    · exact h.2 c hc

/-- A write inside the tape lists no cell outside it. -/
theorem Memory.write_bounded {n : Nat} (h : ∀ c ∈ m, c.1 < n) (ha : a < n) : ∀ c ∈ m.write a v, c.1 < n := by
  intro c hc
  unfold Memory.write at hc
  split at hc
  · exact h c (mem_of_mem_sparseErase hc)
  · rcases mem_sparseInsert hc with rfl | hc
    · exact ha
    · exact h c hc

theorem Memory.wf_nil : Memory.wf [] := by decide

/-- The tape of the reset state is in canonical form. -/
theorem State.reset_tape_wf : State.reset.tape.wf := Memory.wf_nil

/-- Canonical tapes that read the same everywhere are equal data. -/
theorem Memory.ext_of_wf {m' : Memory} (h : m.wf) (h' : m'.wf) (heq : ∀ a, m.read a = m'.read a) : m = m' := by
  refine sparse_ext h.1 h'.1 fun a => ?_
  have ne {k : Memory} (hk : k.wf) : ∀ v, sparseLookup k a = some v → v ≠ Memory.unlisted :=
    fun v hv => hk.2 _ (mem_of_sparseLookup hv)
  have := heq a
  unfold Memory.read at this
  cases h1 : sparseLookup m a with
  | none =>
    cases h2 : sparseLookup m' a with
    | none => rfl
    | some v => simp only [h1, h2, Option.getD] at this; exact absurd this.symm (ne h' v h2)
  | some v =>
    cases h2 : sparseLookup m' a with
    | none => simp only [h1, h2, Option.getD] at this; exact absurd this (ne h v h1)
    | some w => simp only [h1, h2, Option.getD] at this; rw [this]

end Tape

/-! ### The program store -/

section ProgramStore

variable {st : Store} {i j : Nat} {instr : Instr}

@[simp] theorem Store.read_write_self (st : Store) (i : Nat) (instr : Instr) :
    (st.write i instr).read i = some instr := sparseLookup_insert_self st i instr

theorem Store.read_write_of_ne (h : j ≠ i) : (st.write i instr).read j = st.read j :=
  sparseLookup_insert_of_ne h

/-- A load keeps the canonical form. -/
theorem Store.wf_write (h : st.wf) : (st.write i instr).wf := sparseRising_insert h

/-- A load below the capacity lists no index above it. -/
theorem Store.write_bounded {n : Nat} (h : ∀ e ∈ st, e.1 < n) (hi : i < n) : ∀ e ∈ st.write i instr, e.1 < n := by
  intro e he
  rcases mem_sparseInsert he with rfl | he
  · exact hi
  · exact h e he

/-- A loaded entry is what the fetch and the scans read. -/
theorem State.entry_of_read {s : State} (h : s.store.read i = some instr) : s.entry i = instr := by
  simp [State.entry, h]

end ProgramStore

end Sys2Proof.Machine
end

