-- ==== Sys2Proof/Laws/State.lean ====
section
/-! SUPPORT. One lemma per field per register write, so that no later proof unfolds a state update; then the same for
the two reads `State.entry` and `State.cell`. -/

namespace Sys2Proof.Machine

section Fields

variable (s : State)

/-! ### `State.setPc` -/

@[simp] theorem State.setPc_tapeSize (v : Nat) : (s.setPc v).tapeSize = s.tapeSize := rfl
@[simp] theorem State.setPc_capacity (v : Nat) : (s.setPc v).capacity = s.capacity := rfl
@[simp] theorem State.setPc_progLen (v : Nat) : (s.setPc v).progLen = s.progLen := rfl
@[simp] theorem State.setPc_store (v : Nat) : (s.setPc v).store = s.store := rfl
@[simp] theorem State.setPc_storeFill (v : Nat) : (s.setPc v).storeFill = s.storeFill := rfl
@[simp] theorem State.setPc_tape (v : Nat) : (s.setPc v).tape = s.tape := rfl
@[simp] theorem State.setPc_dp (v : Nat) : (s.setPc v).dp = s.dp := rfl
@[simp] theorem State.setPc_pc (v : Nat) : (s.setPc v).pc = v := rfl
@[simp] theorem State.setPc_status (v : Nat) : (s.setPc v).status = s.status := rfl
@[simp] theorem State.setPc_cause (v : Nat) : (s.setPc v).cause = s.cause := rfl
@[simp] theorem State.setPc_faultIndex (v : Nat) : (s.setPc v).faultIndex = s.faultIndex := rfl
@[simp] theorem State.setPc_out (v : Nat) : (s.setPc v).out = s.out := rfl
@[simp] theorem State.setPc_entry (v : Nat) : (s.setPc v).entry = s.entry := rfl
@[simp] theorem State.setPc_cell (v : Nat) : (s.setPc v).cell = s.cell := rfl

/-! ### `State.setDp` -/

@[simp] theorem State.setDp_tapeSize (v : Nat) : (s.setDp v).tapeSize = s.tapeSize := rfl
@[simp] theorem State.setDp_capacity (v : Nat) : (s.setDp v).capacity = s.capacity := rfl
@[simp] theorem State.setDp_progLen (v : Nat) : (s.setDp v).progLen = s.progLen := rfl
@[simp] theorem State.setDp_store (v : Nat) : (s.setDp v).store = s.store := rfl
@[simp] theorem State.setDp_storeFill (v : Nat) : (s.setDp v).storeFill = s.storeFill := rfl
@[simp] theorem State.setDp_tape (v : Nat) : (s.setDp v).tape = s.tape := rfl
@[simp] theorem State.setDp_dp (v : Nat) : (s.setDp v).dp = v := rfl
@[simp] theorem State.setDp_pc (v : Nat) : (s.setDp v).pc = s.pc := rfl
@[simp] theorem State.setDp_status (v : Nat) : (s.setDp v).status = s.status := rfl
@[simp] theorem State.setDp_cause (v : Nat) : (s.setDp v).cause = s.cause := rfl
@[simp] theorem State.setDp_faultIndex (v : Nat) : (s.setDp v).faultIndex = s.faultIndex := rfl
@[simp] theorem State.setDp_out (v : Nat) : (s.setDp v).out = s.out := rfl
@[simp] theorem State.setDp_entry (v : Nat) : (s.setDp v).entry = s.entry := rfl
@[simp] theorem State.setDp_cell (v : Nat) : (s.setDp v).cell = s.cell := rfl

/-! ### `State.setStatus` -/

@[simp] theorem State.setStatus_tapeSize (v : RunStatus) : (s.setStatus v).tapeSize = s.tapeSize := rfl
@[simp] theorem State.setStatus_capacity (v : RunStatus) : (s.setStatus v).capacity = s.capacity := rfl
@[simp] theorem State.setStatus_progLen (v : RunStatus) : (s.setStatus v).progLen = s.progLen := rfl
@[simp] theorem State.setStatus_store (v : RunStatus) : (s.setStatus v).store = s.store := rfl
@[simp] theorem State.setStatus_storeFill (v : RunStatus) : (s.setStatus v).storeFill = s.storeFill := rfl
@[simp] theorem State.setStatus_tape (v : RunStatus) : (s.setStatus v).tape = s.tape := rfl
@[simp] theorem State.setStatus_dp (v : RunStatus) : (s.setStatus v).dp = s.dp := rfl
@[simp] theorem State.setStatus_pc (v : RunStatus) : (s.setStatus v).pc = s.pc := rfl
@[simp] theorem State.setStatus_status (v : RunStatus) : (s.setStatus v).status = v := rfl
@[simp] theorem State.setStatus_cause (v : RunStatus) : (s.setStatus v).cause = s.cause := rfl
@[simp] theorem State.setStatus_faultIndex (v : RunStatus) : (s.setStatus v).faultIndex = s.faultIndex := rfl
@[simp] theorem State.setStatus_out (v : RunStatus) : (s.setStatus v).out = s.out := rfl
@[simp] theorem State.setStatus_entry (v : RunStatus) : (s.setStatus v).entry = s.entry := rfl
@[simp] theorem State.setStatus_cell (v : RunStatus) : (s.setStatus v).cell = s.cell := rfl

/-! ### `State.setTape` -/

@[simp] theorem State.setTape_tapeSize (m : Memory) : (s.setTape m).tapeSize = s.tapeSize := rfl
@[simp] theorem State.setTape_capacity (m : Memory) : (s.setTape m).capacity = s.capacity := rfl
@[simp] theorem State.setTape_progLen (m : Memory) : (s.setTape m).progLen = s.progLen := rfl
@[simp] theorem State.setTape_store (m : Memory) : (s.setTape m).store = s.store := rfl
@[simp] theorem State.setTape_storeFill (m : Memory) : (s.setTape m).storeFill = s.storeFill := rfl
@[simp] theorem State.setTape_tape (m : Memory) : (s.setTape m).tape = m := rfl
@[simp] theorem State.setTape_dp (m : Memory) : (s.setTape m).dp = s.dp := rfl
@[simp] theorem State.setTape_pc (m : Memory) : (s.setTape m).pc = s.pc := rfl
@[simp] theorem State.setTape_status (m : Memory) : (s.setTape m).status = s.status := rfl
@[simp] theorem State.setTape_cause (m : Memory) : (s.setTape m).cause = s.cause := rfl
@[simp] theorem State.setTape_faultIndex (m : Memory) : (s.setTape m).faultIndex = s.faultIndex := rfl
@[simp] theorem State.setTape_out (m : Memory) : (s.setTape m).out = s.out := rfl
@[simp] theorem State.setTape_entry (m : Memory) : (s.setTape m).entry = s.entry := rfl
@[simp] theorem State.setTape_cell (m : Memory) (a : Nat) : (s.setTape m).cell a = m.read a := rfl

/-! ### `State.setStore` -/

@[simp] theorem State.setStore_tapeSize (st : Store) : (s.setStore st).tapeSize = s.tapeSize := rfl
@[simp] theorem State.setStore_capacity (st : Store) : (s.setStore st).capacity = s.capacity := rfl
@[simp] theorem State.setStore_progLen (st : Store) : (s.setStore st).progLen = s.progLen := rfl
@[simp] theorem State.setStore_store (st : Store) : (s.setStore st).store = st := rfl
@[simp] theorem State.setStore_storeFill (st : Store) : (s.setStore st).storeFill = s.storeFill := rfl
@[simp] theorem State.setStore_tape (st : Store) : (s.setStore st).tape = s.tape := rfl
@[simp] theorem State.setStore_dp (st : Store) : (s.setStore st).dp = s.dp := rfl
@[simp] theorem State.setStore_pc (st : Store) : (s.setStore st).pc = s.pc := rfl
@[simp] theorem State.setStore_status (st : Store) : (s.setStore st).status = s.status := rfl
@[simp] theorem State.setStore_cause (st : Store) : (s.setStore st).cause = s.cause := rfl
@[simp] theorem State.setStore_faultIndex (st : Store) : (s.setStore st).faultIndex = s.faultIndex := rfl
@[simp] theorem State.setStore_out (st : Store) : (s.setStore st).out = s.out := rfl
@[simp] theorem State.setStore_entry (st : Store) (i : Nat) :
    (s.setStore st).entry i = (st.read i).getD (Config.unloadedEntry s.storeFill i) := rfl
@[simp] theorem State.setStore_cell (st : Store) : (s.setStore st).cell = s.cell := rfl

/-! ### `State.setProgLen` -/

@[simp] theorem State.setProgLen_tapeSize (l : Nat) : (s.setProgLen l).tapeSize = s.tapeSize := rfl
@[simp] theorem State.setProgLen_capacity (l : Nat) : (s.setProgLen l).capacity = s.capacity := rfl
@[simp] theorem State.setProgLen_progLen (l : Nat) : (s.setProgLen l).progLen = l := rfl
@[simp] theorem State.setProgLen_store (l : Nat) : (s.setProgLen l).store = s.store := rfl
@[simp] theorem State.setProgLen_storeFill (l : Nat) : (s.setProgLen l).storeFill = s.storeFill := rfl
@[simp] theorem State.setProgLen_tape (l : Nat) : (s.setProgLen l).tape = s.tape := rfl
@[simp] theorem State.setProgLen_dp (l : Nat) : (s.setProgLen l).dp = s.dp := rfl
@[simp] theorem State.setProgLen_pc (l : Nat) : (s.setProgLen l).pc = s.pc := rfl
@[simp] theorem State.setProgLen_status (l : Nat) : (s.setProgLen l).status = s.status := rfl
@[simp] theorem State.setProgLen_cause (l : Nat) : (s.setProgLen l).cause = s.cause := rfl
@[simp] theorem State.setProgLen_faultIndex (l : Nat) : (s.setProgLen l).faultIndex = s.faultIndex := rfl
@[simp] theorem State.setProgLen_out (l : Nat) : (s.setProgLen l).out = s.out := rfl
@[simp] theorem State.setProgLen_entry (l : Nat) : (s.setProgLen l).entry = s.entry := rfl
@[simp] theorem State.setProgLen_cell (l : Nat) : (s.setProgLen l).cell = s.cell := rfl

/-! ### `State.emit` -/

@[simp] theorem State.emit_tapeSize (v : Byte) : (s.emit v).tapeSize = s.tapeSize := rfl
@[simp] theorem State.emit_capacity (v : Byte) : (s.emit v).capacity = s.capacity := rfl
@[simp] theorem State.emit_progLen (v : Byte) : (s.emit v).progLen = s.progLen := rfl
@[simp] theorem State.emit_store (v : Byte) : (s.emit v).store = s.store := rfl
@[simp] theorem State.emit_storeFill (v : Byte) : (s.emit v).storeFill = s.storeFill := rfl
@[simp] theorem State.emit_tape (v : Byte) : (s.emit v).tape = s.tape := rfl
@[simp] theorem State.emit_dp (v : Byte) : (s.emit v).dp = s.dp := rfl
@[simp] theorem State.emit_pc (v : Byte) : (s.emit v).pc = s.pc := rfl
@[simp] theorem State.emit_status (v : Byte) : (s.emit v).status = s.status := rfl
@[simp] theorem State.emit_cause (v : Byte) : (s.emit v).cause = s.cause := rfl
@[simp] theorem State.emit_faultIndex (v : Byte) : (s.emit v).faultIndex = s.faultIndex := rfl
@[simp] theorem State.emit_out (v : Byte) : (s.emit v).out = s.out ++ [v] := rfl
@[simp] theorem State.emit_entry (v : Byte) : (s.emit v).entry = s.entry := rfl
@[simp] theorem State.emit_cell (v : Byte) : (s.emit v).cell = s.cell := rfl

/-! ### `State.advance` -/

@[simp] theorem State.advance_tapeSize : (s.advance).tapeSize = s.tapeSize := rfl
@[simp] theorem State.advance_capacity : (s.advance).capacity = s.capacity := rfl
@[simp] theorem State.advance_progLen : (s.advance).progLen = s.progLen := rfl
@[simp] theorem State.advance_store : (s.advance).store = s.store := rfl
@[simp] theorem State.advance_storeFill : (s.advance).storeFill = s.storeFill := rfl
@[simp] theorem State.advance_tape : (s.advance).tape = s.tape := rfl
@[simp] theorem State.advance_dp : (s.advance).dp = s.dp := rfl
@[simp] theorem State.advance_pc : (s.advance).pc = s.pc + 1 := rfl
@[simp] theorem State.advance_status : (s.advance).status = s.status := rfl
@[simp] theorem State.advance_cause : (s.advance).cause = s.cause := rfl
@[simp] theorem State.advance_faultIndex : (s.advance).faultIndex = s.faultIndex := rfl
@[simp] theorem State.advance_out : (s.advance).out = s.out := rfl
@[simp] theorem State.advance_entry : (s.advance).entry = s.entry := rfl
@[simp] theorem State.advance_cell : (s.advance).cell = s.cell := rfl

/-! ### `State.haltRun` -/

@[simp] theorem State.haltRun_tapeSize : (s.haltRun).tapeSize = s.tapeSize := rfl
@[simp] theorem State.haltRun_capacity : (s.haltRun).capacity = s.capacity := rfl
@[simp] theorem State.haltRun_progLen : (s.haltRun).progLen = s.progLen := rfl
@[simp] theorem State.haltRun_store : (s.haltRun).store = s.store := rfl
@[simp] theorem State.haltRun_storeFill : (s.haltRun).storeFill = s.storeFill := rfl
@[simp] theorem State.haltRun_tape : (s.haltRun).tape = s.tape := rfl
@[simp] theorem State.haltRun_dp : (s.haltRun).dp = s.dp := rfl
@[simp] theorem State.haltRun_pc : (s.haltRun).pc = s.pc := rfl
@[simp] theorem State.haltRun_status : (s.haltRun).status = .halt := rfl
@[simp] theorem State.haltRun_cause : (s.haltRun).cause = s.cause := rfl
@[simp] theorem State.haltRun_faultIndex : (s.haltRun).faultIndex = s.faultIndex := rfl
@[simp] theorem State.haltRun_out : (s.haltRun).out = s.out := rfl
@[simp] theorem State.haltRun_entry : (s.haltRun).entry = s.entry := rfl
@[simp] theorem State.haltRun_cell : (s.haltRun).cell = s.cell := rfl

/-! ### `State.raiseUnmatchedClose` -/

@[simp] theorem State.raiseUnmatchedClose_tapeSize (c : Nat) : (s.raiseUnmatchedClose c).tapeSize = s.tapeSize := rfl
@[simp] theorem State.raiseUnmatchedClose_capacity (c : Nat) : (s.raiseUnmatchedClose c).capacity = s.capacity := rfl
@[simp] theorem State.raiseUnmatchedClose_progLen (c : Nat) : (s.raiseUnmatchedClose c).progLen = s.progLen := rfl
@[simp] theorem State.raiseUnmatchedClose_store (c : Nat) : (s.raiseUnmatchedClose c).store = s.store := rfl
@[simp] theorem State.raiseUnmatchedClose_storeFill (c : Nat) : (s.raiseUnmatchedClose c).storeFill = s.storeFill := rfl
@[simp] theorem State.raiseUnmatchedClose_tape (c : Nat) : (s.raiseUnmatchedClose c).tape = s.tape := rfl
@[simp] theorem State.raiseUnmatchedClose_dp (c : Nat) : (s.raiseUnmatchedClose c).dp = s.dp := rfl
@[simp] theorem State.raiseUnmatchedClose_pc (c : Nat) : (s.raiseUnmatchedClose c).pc = c := rfl
@[simp] theorem State.raiseUnmatchedClose_status (c : Nat) : (s.raiseUnmatchedClose c).status = .fault := rfl
@[simp] theorem State.raiseUnmatchedClose_cause (c : Nat) : (s.raiseUnmatchedClose c).cause = .unmatchedClose := rfl
@[simp] theorem State.raiseUnmatchedClose_faultIndex (c : Nat) : (s.raiseUnmatchedClose c).faultIndex = c := rfl
@[simp] theorem State.raiseUnmatchedClose_out (c : Nat) : (s.raiseUnmatchedClose c).out = s.out := rfl
@[simp] theorem State.raiseUnmatchedClose_entry (c : Nat) : (s.raiseUnmatchedClose c).entry = s.entry := rfl
@[simp] theorem State.raiseUnmatchedClose_cell (c : Nat) : (s.raiseUnmatchedClose c).cell = s.cell := rfl

end Fields

end Sys2Proof.Machine
end

