-- ==== Sys2Proof/Laws/Ops.lean ====
section
/-! SUPPORT. One lemma per shared operation saying what it can do: the tape accesses, the current cell, the cell and
pointer arithmetic (spec/20_memory.md R33, R34, spec/41_tape_pointer.md R66, R67, R72). -/

namespace Sys2Proof.Machine

variable {s t : State} {a : Nat} {v : Byte} {k : Byte → Host.Outcome State Fault Refusal} {f : Byte → Byte}

theorem memRead_of_lt (h : a < s.tapeSize) : memRead s a k = k (s.cell a) := by
  simp [memRead, h]

theorem memRead_of_ge (h : s.tapeSize ≤ a) : memRead s a k = .fault (.noSuchCell a) := by
  simp [memRead, Nat.not_lt.mpr h]

theorem memWrite_of_lt (h : a < s.tapeSize) : memWrite s a v = .next (s.setTape (s.tape.write a v)) := by
  simp [memWrite, h]

/-- All that a read of the current cell can do on the way to a next state. -/
theorem withCurrentCell_next (h : withCurrentCell s k = .next t) :
    s.dp < s.tapeSize ∧ k (s.cell s.dp) = .next t := by
  unfold withCurrentCell memRead effectiveAddress at h
  split at h
  · exact ⟨‹_›, h⟩
  · cases h

theorem withCurrentCell_of_lt (h : s.dp < s.tapeSize) : withCurrentCell s k = k (s.cell s.dp) :=
  memRead_of_lt h

theorem withCurrentCell_of_ge (h : s.tapeSize ≤ s.dp) : withCurrentCell s k = .fault (.noSuchCell s.dp) :=
  memRead_of_ge h

/-- All that a read-modify-write of the current cell can do on the way to a next state. -/
theorem updateCurrentCell_next (h : updateCurrentCell f s = .next t) :
    s.dp < s.tapeSize ∧ t = s.setTape (s.tape.write s.dp (f (s.cell s.dp))) := by
  obtain ⟨hdp, h⟩ := withCurrentCell_next h
  rw [effectiveAddress, memWrite_of_lt hdp] at h
  exact ⟨hdp, (Host.Outcome.next.inj h).symm⟩

theorem updateCurrentCell_of_lt (h : s.dp < s.tapeSize) :
    updateCurrentCell f s = .next (s.setTape (s.tape.write s.dp (f (s.cell s.dp)))) := by
  rw [updateCurrentCell, withCurrentCell_of_lt h, effectiveAddress, memWrite_of_lt h]

@[simp] theorem cellIsZero_iff : cellIsZero v = true ↔ v = 0#8 := by
  simp [cellIsZero]

theorem cellIncrement_toNat (v : Byte) : (cellIncrement v).toNat = (v.toNat + 1) % 256 := by
  simp [cellIncrement]

theorem cellDecrement_toNat (v : Byte) : (cellDecrement v).toNat = (v.toNat + 255) % 256 := by
  simp [cellDecrement]

theorem pointerRight_lt {n d : Nat} (h : d < n) : pointerRight n d < n := by
  unfold pointerRight
  split <;> omega

theorem pointerLeft_lt {n d : Nat} (h : d < n) : pointerLeft n d < n := by
  unfold pointerLeft
  split <;> omega

end Sys2Proof.Machine
end

