-- ==== Sys2Proof/Laws/Loops.lean ====
section
/-! SUPPORT. What the two scans can answer and what the two jumps can leave (spec/43_loops.md R78, R79). -/

namespace Sys2Proof.Machine

/-- A forward scan ends between where it starts and where it runs off. -/
theorem scanForward_bounds (entry : Nat → Instr) (left pc depth : Nat) :
    pc ≤ scanForward entry left pc depth ∧ scanForward entry left pc depth ≤ pc + left := by
  induction left generalizing pc depth with
  | zero => simp [scanForward]
  | succ left ih =>
    have next (d : Nat) := ih (pc + 1) d
    unfold scanForward
    split
    case h_2 =>
      split
      · omega
      · have := next (depth - 1); omega
    all_goals first
      | (have := next (depth + 1); omega)
      | (have := next depth; omega)

/-- A forward scan that does not run off ends at a CLOSE. -/
theorem scanForward_close {entry : Nat → Instr} {left pc depth : Nat}
    (h : scanForward entry left pc depth < pc + left) :
    entry (scanForward entry left pc depth) = .loopClose := by
  induction left generalizing pc depth with
  | zero => simp [scanForward] at h
  | succ left ih =>
    cases hi : entry pc with
    | loopClose =>
      by_cases hd : depth = 0
      · simp [scanForward, hi, hd]
      · simp only [scanForward, hi, hd, if_false] at h ⊢
        exact ih (by omega)
    | _ =>
      simp only [scanForward, hi] at h ⊢
      exact ih (by omega)

/-- A backward match lies below where the scan starts and is an OPEN. -/
theorem scanBackward_some {entry : Nat → Instr} {n depth k : Nat}
    (h : scanBackward entry n depth = some k) : k < n ∧ entry k = .loopOpen := by
  induction n generalizing depth with
  | zero => simp [scanBackward] at h
  | succ n ih =>
    unfold scanBackward at h
    split at h
    case h_2 heq =>
      split at h
      · obtain rfl := Option.some.inj h
        exact ⟨Nat.lt_succ_self _, heq⟩
      · exact (ih h).imp_left (Nat.lt_succ_of_lt ·)
    all_goals exact (ih h).imp_left (Nat.lt_succ_of_lt ·)

/-- The forward jump writes `pc` and nothing else, and leaves it inside the program. -/
theorem jumpForward_spec (s : State) (h : s.pc ≤ s.progLen) :
    ∃ j, jumpForward s = s.setPc j ∧ s.pc ≤ j ∧ j ≤ s.progLen :=
  have := scanForward_bounds s.entry (s.progLen - s.pc) s.pc 0
  ⟨_, rfl, this.1, by omega⟩

/-- The backward jump goes to an OPEN before the CLOSE, or raises the exception. -/
theorem jumpBackward_cases (s : State) :
    (∃ k, scanBackward s.entry (closeIndex s) 0 = some k ∧ k < closeIndex s ∧ s.entry k = .loopOpen ∧
      jumpBackward s = s.setPc k) ∨
    (scanBackward s.entry (closeIndex s) 0 = none ∧
      jumpBackward s = s.raiseUnmatchedClose (closeIndex s)) := by
  unfold jumpBackward
  split
  · rename_i k hk
    exact .inl ⟨k, hk, (scanBackward_some hk).1, (scanBackward_some hk).2, rfl⟩
  · rename_i hnone
    exact .inr ⟨hnone, rfl⟩

end Sys2Proof.Machine
end

