-- ==== Sys2Proof/Laws/PerInstr.lean ====
section
/-! SUPPORT. What holds of every instruction as syntax, one lemma per constructor: it is well formed, its character
decodes to it, its internal code stands for it, and that code is one the decoder produces (spec/30_encoding.md R50, R51). -/

namespace Sys2Proof.Laws.Encoding

/-- The encoding facts of one instruction. -/
def Statement (i : Instr) : Prop :=
  i.wellFormed = true ∧ decode (encode i) = i ∧ instrOfCode i.code = some i ∧ codeLegal i.code = true

theorem movr : Statement .movr := by unfold Statement; decide
theorem movl : Statement .movl := by unfold Statement; decide
theorem inc : Statement .inc := by unfold Statement; decide
theorem dec : Statement .dec := by unfold Statement; decide
theorem output : Statement .output := by unfold Statement; decide
theorem input : Statement .input := by unfold Statement; decide
theorem loopOpen : Statement .loopOpen := by unfold Statement; decide
theorem loopClose : Statement .loopClose := by unfold Statement; decide
theorem nop : Statement .nop := by unfold Statement; decide

end Sys2Proof.Laws.Encoding
end

