-- ==== Sys2Proof/Laws/Step.lean ====
section
/-! SUPPORT. The inversions: all that `exec` and `step` can do on the way to a next state. Later proofs cite these and
do not unfold the meanings again. -/

namespace Sys2Proof.Machine

variable {i : Instr} {s t : State}

/-- Every next state of `exec` is one of these (R59). -/
theorem exec_next_cases (h : exec i s = .next t) :
    (i = .movr ∧ t = s.setDp (pointerRight s.tapeSize s.dp)) ∨
    (i = .movl ∧ t = s.setDp (pointerLeft s.tapeSize s.dp)) ∨
    (i = .inc ∧ s.dp < s.tapeSize ∧ t = s.setTape (s.tape.write s.dp (cellIncrement (s.cell s.dp)))) ∨
    (i = .dec ∧ s.dp < s.tapeSize ∧ t = s.setTape (s.tape.write s.dp (cellDecrement (s.cell s.dp)))) ∨
    (i = .output ∧ s.dp < s.tapeSize ∧ t = s.emit (s.cell s.dp)) ∨
    (i = .input ∧ t = s) ∨
    (i = .loopOpen ∧ s.dp < s.tapeSize ∧ s.cell s.dp = 0#8 ∧ t = jumpForward s) ∨
    (i = .loopOpen ∧ s.dp < s.tapeSize ∧ s.cell s.dp ≠ 0#8 ∧ t = s) ∨
    (i = .loopClose ∧ s.dp < s.tapeSize ∧ s.cell s.dp = 0#8 ∧ t = s) ∨
    (i = .loopClose ∧ s.dp < s.tapeSize ∧ s.cell s.dp ≠ 0#8 ∧ t = jumpBackward s) ∨
    (i = .nop ∧ t = s) := by
  cases i with
  | movr => simpa [exec, execMovr, eq_comm] using h
  | movl => simpa [exec, execMovl, eq_comm] using h
  | inc => simpa using updateCurrentCell_next h
  | dec => simpa using updateCurrentCell_next h
  | output =>
    simp only [exec, execOutput] at h
    obtain ⟨hdp, h⟩ := withCurrentCell_next h
    simpa [hdp, eq_comm] using h
  | input => simpa [exec, execInput, eq_comm] using h
  | loopOpen =>
    simp only [exec, execLoopOpen] at h
    obtain ⟨hdp, h⟩ := withCurrentCell_next h
    by_cases hz : s.cell s.dp = 0#8 <;> simpa [hdp, hz, eq_comm, cellIsZero] using h
  | loopClose =>
    simp only [exec, execLoopClose] at h
    obtain ⟨hdp, h⟩ := withCurrentCell_next h
    by_cases hz : s.cell s.dp = 0#8 <;> simpa [hdp, hz, eq_comm, cellIsZero] using h
  | nop => simpa [exec, execNop, eq_comm] using h

/-- OPEN's two outcomes on a cell of the tape, in the terms of its jump. -/
theorem exec_loopOpen_of_lt (h : s.dp < s.tapeSize) :
    exec .loopOpen s = .next (if s.cell s.dp = 0#8 then jumpForward s else s) := by
  simp only [exec, execLoopOpen, withCurrentCell_of_lt h, cellIsZero, decide_eq_true_eq]
  split <;> rfl

/-- CLOSE's two outcomes on a cell of the tape, in the terms of its jump. -/
theorem exec_loopClose_of_lt (h : s.dp < s.tapeSize) :
    exec .loopClose s = .next (if s.cell s.dp = 0#8 then s else jumpBackward s) := by
  simp only [exec, execLoopClose, withCurrentCell_of_lt h, cellIsZero, decide_eq_true_eq]
  split <;> rfl

/-- A step with a next state is the halting step or an instruction of the program (R57, R58, R62). -/
theorem step_next_cases (h : step s = .next t) :
    s.status = .run ∧
      ((s.progLen ≤ s.pc ∧ t = s.haltRun) ∨
        (s.pc < s.progLen ∧ exec (s.entry s.pc) s.advance = .next t)) := by
  unfold step fetchExecute at h
  split at h <;> try cases h
  rename_i hrun
  refine ⟨hrun, ?_⟩
  unfold runStep at h
  split at h
  · exact .inl ⟨‹_›, (Host.Outcome.next.inj h).symm⟩
  · exact .inr ⟨by omega, h⟩

/-- What is placed where the next step fetches is what that step runs. -/
theorem step_withFetchWord {nbits w : Nat} (h : decodeTableWord nbits w = some i) :
    step (s.withFetchWord nbits w) = exec i (s.placeInstruction i).advance := by
  have hentry : (s.placeInstruction i).entry (s.placeInstruction i).pc = i :=
    State.entry_of_read (Store.read_write_self s.store s.pc i)
  have hlt : ¬ (s.placeInstruction i).progLen ≤ (s.placeInstruction i).pc := by
    simp [State.placeInstruction]
  have hrun : (s.placeInstruction i).status = .run := rfl
  simp only [State.withFetchWord, h, step, fetchExecute, hrun, runStep, if_neg hlt, hentry]

end Sys2Proof.Machine
end

