-- ==== Sys2Proof/Laws/Ports.lean ====
section
/-! SUPPORT. The inversion of the ports: all that an event can do on the way to a next state (spec/70_reset_and_hazards.md
R104). -/

namespace Sys2Proof.Machine

/-! ### `State.afterReset`, field by field -/

@[simp] theorem State.afterReset_tapeSize (s : State) (n : Nat) : (s.afterReset n).tapeSize = n := rfl
@[simp] theorem State.afterReset_capacity (s : State) (n : Nat) : (s.afterReset n).capacity = s.capacity := rfl
@[simp] theorem State.afterReset_progLen (s : State) (n : Nat) : (s.afterReset n).progLen = 0 := rfl
@[simp] theorem State.afterReset_store (s : State) (n : Nat) : (s.afterReset n).store = [] := rfl
@[simp] theorem State.afterReset_storeFill (s : State) (n : Nat) : (s.afterReset n).storeFill = s.storeFill + 1 := rfl
@[simp] theorem State.afterReset_tape (s : State) (n : Nat) : (s.afterReset n).tape = [] := rfl
@[simp] theorem State.afterReset_dp (s : State) (n : Nat) : (s.afterReset n).dp = 0 := rfl
@[simp] theorem State.afterReset_pc (s : State) (n : Nat) : (s.afterReset n).pc = 0 := rfl
@[simp] theorem State.afterReset_status (s : State) (n : Nat) : (s.afterReset n).status = .idle := rfl
@[simp] theorem State.afterReset_cause (s : State) (n : Nat) : (s.afterReset n).cause = .noCause := rfl
@[simp] theorem State.afterReset_faultIndex (s : State) (n : Nat) : (s.afterReset n).faultIndex = 0 := rfl
@[simp] theorem State.afterReset_out (s : State) (n : Nat) : (s.afterReset n).out = [] := rfl

/-! ### The events -/

variable {e : PortEvent} {s t : State}

/-- The core's turn waits or steps. -/
theorem turnCore_next {ready : Bool} (h : turnCore ready s = .next t) : t = s ∨ step s = .next t := by
  unfold turnCore at h
  split at h
  · exact .inl (Host.Outcome.next.inj h).symm
  · exact .inr h

/-- A load replaces the store in IDLE below the capacity, and does nothing elsewhere. -/
theorem loadEntry_cases (addr : Nat) (c : CodePoint) (s : State) :
    loadEntry addr c s = s ∨
      (s.status = .idle ∧ addr < s.capacity ∧
        loadEntry addr c s = s.setStore (s.store.write addr (decode c))) := by
  unfold loadEntry
  split
  · rename_i h
    exact .inr ⟨h.1, h.2, rfl⟩
  · exact .inl rfl

/-- A start enters RUN from IDLE with a legal configuration, and does nothing elsewhere. -/
theorem startRun_cases (len : Nat) (s : State) :
    startRun len s = s ∨
      (s.status = .idle ∧ 0 < s.tapeSize ∧ len ≤ s.capacity ∧
        startRun len s = (s.setProgLen len).setStatus .run) := by
  unfold startRun
  split
  · rename_i h
    obtain ⟨hidle, hlegal⟩ := h
    simp only [configLegal, tapeSizeLegal, programFits, Bool.and_eq_true, decide_eq_true_eq] at hlegal
    exact .inr ⟨hidle, hlegal.1, hlegal.2, rfl⟩
  · exact .inl rfl

/-- A reset that is not refused has `N >= 1` and leaves the reset state. -/
theorem resetCore_next {n : Nat} (h : resetCore n s = .next t) : 0 < n ∧ t = s.afterReset n := by
  unfold resetCore at h
  split at h
  · rename_i hn
    exact ⟨by simpa [tapeSizeLegal] using hn, (Host.Outcome.next.inj h).symm⟩
  · cases h

/-- Every next state of an event is one of these. -/
theorem onEvent_next_cases (h : onEvent e s = .next t) :
    t = s ∨
    (∃ n, e = .reset n ∧ 0 < n ∧ t = s.afterReset n) ∨
    (∃ addr c, e = .load addr c ∧ s.status = .idle ∧ addr < s.capacity ∧
      t = s.setStore (s.store.write addr (decode c))) ∨
    (∃ len, e = .start len ∧ s.status = .idle ∧ 0 < s.tapeSize ∧ len ≤ s.capacity ∧
      t = (s.setProgLen len).setStatus .run) ∨
    (∃ ready, e = .turn ready ∧ step s = .next t) := by
  cases e with
  | reset n => exact .inr (.inl ⟨n, rfl, resetCore_next h⟩)
  | load addr c =>
    obtain rfl := (Host.Outcome.next.inj h).symm
    exact (loadEntry_cases addr c s).imp id fun hl => .inr (.inl ⟨addr, c, rfl, hl⟩)
  | start len =>
    obtain rfl := (Host.Outcome.next.inj h).symm
    exact (startRun_cases len s).imp id fun hl => .inr (.inr (.inl ⟨len, rfl, hl⟩))
  | writeStatus w => exact .inl (Host.Outcome.next.inj h).symm
  | writeFaultIndex w => exact .inl (Host.Outcome.next.inj h).symm
  | turn ready => exact (turnCore_next h).imp id fun hs => .inr (.inr (.inr ⟨ready, rfl, hs⟩))

end Sys2Proof.Machine
end

