-- ==== Sys2Proof/Tests/Slice0.lean ====
section
/-! SUPPORT. Tests. Expected results come from spec/95_test_vectors.md (vector named in each docstring) or by hand from
the rule cited. Then, for every statement with hypotheses, a witness that meets them. -/

namespace Sys2Proof.Machine.Tests

open Sys2Proof Sys2Proof.Machine

/-! ### Helpers -/

/-- A store holding a decoded source text from an index on. -/
def storeFrom : Nat → List CodePoint → Store
  | _, [] => []
  | i, c :: rest => (i, decode c) :: storeFrom (i + 1) rest

/-- A running core on a source text, with `dp = 0`. -/
def running (source : List CodePoint) (n pc : Nat) (cell : Byte) : State :=
  { State.reset with
    tapeSize := n, capacity := source.length, progLen := source.length, store := storeFrom 0 source,
    tape := Memory.write [] 0 cell, pc := pc, status := .run }

/-- A view of a next state; none where the outcome is a stop. -/
def after {α : Type} (view : State → α) : Host.Outcome State Fault Refusal → Option α
  | .next t => some (view t)
  | .fault _ => none
  | .refused _ => none

/-- A running core on an empty program, with `dp` on a tape of `n` cells. -/
def pointerAt (n dp : Nat) : State := { State.reset with tapeSize := n, dp := dp, status := .run }

/-! ### Well-formedness: a term each check refuses -/

theorem test_wellFormed_accepts : Instr.wellFormed .loopClose = true := by decide
theorem test_code_refused : codeLegal 0x9#4 = false ∧ codeLegal 0x8#4 = true := by decide
theorem test_tapeSize_refused : tapeSizeLegal 0 = false ∧ tapeSizeLegal 1 = true := by decide
theorem test_program_refused : programFits 5 4 = false ∧ programFits 4 4 = true := by decide
theorem test_config_refused : configLegal 0 0 4 = false ∧ configLegal 1 5 4 = false := by decide

/-! ### Decoding, one word per constructor, written out from the encoding column of R50 -/

theorem test_decode_movr : decode 0b000000000000000111110#21 = .movr := by decide
theorem test_decode_movl : decode 0b000000000000000111100#21 = .movl := by decide
theorem test_decode_inc : decode 0b000000000000000101011#21 = .inc := by decide
theorem test_decode_dec : decode 0b000000000000000101101#21 = .dec := by decide
theorem test_decode_output : decode 0b000000000000000101110#21 = .output := by decide
theorem test_decode_input : decode 0b000000000000000101100#21 = .input := by decide
theorem test_decode_loopOpen : decode 0b000000000000001011011#21 = .loopOpen := by decide
theorem test_decode_loopClose : decode 0b000000000000001011101#21 = .loopClose := by decide
/-- V-DEC-ch12 (a full-width bracket) and V-DEC-ch13 (no scalar value). -/
theorem test_decode_nop : decode 0xFF3B#21 = .nop ∧ decode 0x1FFFFF#21 = .nop := by decide
/-- The source text of P3, `++[>+++<-]>.`, and its internal codes. -/
theorem test_decode_source :
    (decodeSource [0x2B, 0x2B, 0x5B, 0x3E, 0x2B, 0x2B, 0x2B, 0x3C, 0x2D, 0x5D, 0x3E, 0x2E]).map Instr.code =
      [3, 3, 7, 1, 3, 3, 3, 2, 4, 8, 1, 5] := by decide
/-- A table word read in whole bytes; a value above 21 bits is no character. -/
theorem test_table_word : decodeTableWord 24 0x2B = some .inc ∧ decodeTableWord 24 0x20002B = none := by decide

/-! ### The instructions -/

/-- V-MOVR-2. -/
theorem test_movr_wraps : after (·.dp) (exec .movr (pointerAt 8 7)) = some 0 := by decide
/-- V-MOVR-3. -/
theorem test_movr_one_cell : after (·.dp) (exec .movr (pointerAt 1 0)) = some 0 := by decide
/-- V-MOVL-2. -/
theorem test_movl_wraps : after (·.dp) (exec .movl (pointerAt 8 0)) = some 7 := by decide
/-- V-MOVL-4. -/
theorem test_movl_reference : after (·.dp) (exec .movl (pointerAt 131072 0)) = some 131071 := by decide
/-- V-INC-2: the cell goes back to 0 and its entry leaves the canonical list. -/
theorem test_inc_wraps : after (·.tape) (exec .inc (running [0x2B] 1 1 255)) = some [] := by decide
/-- V-INC-3. -/
theorem test_inc_sign_change : after (·.cell 0) (exec .inc (running [0x2B] 1 1 127)) = some 128 := by decide
/-- V-DEC-2. -/
theorem test_dec_wraps : after (·.cell 0) (exec .dec (running [0x2D] 1 1 0)) = some 255 := by decide
/-- V-DEC-3. -/
theorem test_dec_sign_change : after (·.cell 0) (exec .dec (running [0x2D] 1 1 128)) = some 127 := by decide
/-- V-OUT-2. -/
theorem test_output_appends :
    after (·.out) (exec .output { running [0x2E] 1 1 255 with out := [1] }) = some [1, 255] := by decide
/-- V-OUT-1. -/
theorem test_output_zero : after (·.out) (step (running [0x2E] 1 0 0)) = some [0] := by decide
/-- V-IN-1. -/
theorem test_input_keeps_cell : after (fun t => (t.pc, t.cell 0)) (step (running [0x2C] 1 0 9)) = some (1, 9) := by
  decide
/-- The worked example of R65. -/
theorem test_nop_advances : after (fun t => (t.pc, t.cell 0)) (step (running [0x78] 1 0 7)) = some (1, 7) := by decide
/-- V-OPEN-3: `[[-]]` skips the inner pair. -/
theorem test_open_nested : after (·.pc) (step (running [0x5B, 0x5B, 0x2D, 0x5D, 0x5D] 1 0 0)) = some 4 := by decide
/-- V-OPEN-5: `[[]` runs off to `L`. -/
theorem test_open_runs_off : after (·.pc) (step (running [0x5B, 0x5B, 0x5D] 1 0 0)) = some 3 := by decide
/-- V-CLOSE-3: `[[-]]` skips the inner pair. -/
theorem test_close_nested : after (·.pc) (step (running [0x5B, 0x5B, 0x2D, 0x5D, 0x5D] 1 4 1)) = some 0 := by decide
/-- V-CLOSE-10: `[]]` underflows. -/
theorem test_close_underflows :
    after (fun t => (t.status, t.cause, t.faultIndex, t.pc)) (step (running [0x5B, 0x5D, 0x5D] 1 2 7)) =
      some (.fault, .unmatchedClose, 2, 2) := by decide

/-! ### The step, the ports, and the placed word -/

/-- V-STEP-1. -/
theorem test_step_halts : after (·.status) (step (running [] 1 0 0)) = some .halt := by decide
/-- P6 `+]`: the STATUS word of the fault is `0x00000007`. -/
theorem test_status_word : after (·.statusWord) (step (running [0x2B, 0x5D] 1 1 1)) = some 0x00000007 := by decide
/-- V-STEP-6. -/
theorem test_reset_event :
    after (fun t => (t.status, t.out, t.tape)) (onEvent (.reset 4) { running [0x2B] 1 1 2 with out := [2] }) =
      some (.idle, [], []) := by decide
/-- V-STEP-7: construction with `N = 0` is refused. -/
theorem test_construct_refuses_zero : after (·.pc) (construct 0 [0x2B] State.reset) = none := by decide
/-- V-OUT-1 at the port: the core waits while `out_ready` is low. -/
theorem test_output_waits : after (fun t => (t.pc, t.out)) (onEvent (.turn false) (running [0x2E] 1 0 65)) =
    some (0, []) := by decide
/-- A placed `+` is the first instruction after reset (R70). -/
theorem test_withFetchWord : after (fun t => (t.pc, t.cell 0)) (step (State.reset.withFetchWord 24 0x2B)) =
    some (1, 1) := by decide

/-! ### Witnesses: for each statement with hypotheses, data that meets them -/

/-! The matches of a program do not depend on `pc` or on the cell, so each stands for every state of its source. -/

/-- `[[-]]`, the source of V-OPEN-3 and V-CLOSE-3. -/
def nested : List CodePoint := [0x5B, 0x5B, 0x2D, 0x5D, 0x5D]

/-- `[[]`, the source of V-OPEN-5. -/
def openTwice : List CodePoint := [0x5B, 0x5B, 0x5D]

/-- `[]]`, the source of V-CLOSE-10. -/
def closeTwice : List CodePoint := [0x5B, 0x5D, 0x5D]

theorem nested_forward : IsForwardMatch (running nested 1 0 0).entry 5 1 4 := by
  refine ⟨by decide, by decide, ⟨rfl, rfl⟩, fun i h1 h2 => ?_⟩
  have hi : i = 1 ∨ i = 2 ∨ i = 3 := by omega
  rcases hi with rfl | rfl | rfl <;> (rintro ⟨hclose, hcount⟩; revert hclose hcount; decide)

theorem nested_backward : IsBackwardMatch (running nested 1 0 0).entry 4 0 := by
  refine ⟨by decide, ⟨rfl, rfl⟩, fun i h1 h2 => ?_⟩
  have hi : i = 1 ∨ i = 2 ∨ i = 3 := by omega
  rcases hi with rfl | rfl | rfl <;> (rintro ⟨hopen, hcount⟩; revert hopen hcount; decide)

theorem openTwice_forward (j : Nat) :
    ¬ IsForwardMatch (running openTwice 1 0 0).entry 3 1 j := by
  rintro ⟨h1, h2, ⟨hclose, hcount⟩, -⟩
  have hj : j = 1 ∨ j = 2 := by omega
  rcases hj with rfl | rfl <;> (revert hclose hcount; decide)

theorem closeTwice_backward (k : Nat) :
    ¬ IsBackwardMatch (running closeTwice 1 0 0).entry 2 k := by
  rintro ⟨h1, ⟨hopen, hcount⟩, -⟩
  have hk : k = 0 ∨ k = 1 := by omega
  rcases hk with rfl | rfl <;> (revert hopen hcount; decide)

/-- `]` at index 0 has no index to scan. -/
theorem close_first_backward (k : Nat) :
    ¬ IsBackwardMatch (running [0x5D] 1 0 0).entry 0 k := fun h => absurd h.1 (Nat.not_lt_zero k)

/-- The invariant holds of a running core in the middle of its program. -/
theorem witness_StateInv : StateInv (running [0x2B, 0x2D] 2 1 5) where
  tapeSize_pos := by decide
  progLen_le := by decide
  dp_lt := by decide
  pc_le := by decide
  tape_wf := by decide
  tape_bounded := by decide
  store_wf := by decide
  store_bounded := by decide
  idle_reset h := by cases h
  halt_end h := by cases h
  no_cause _ := ⟨rfl, rfl⟩
  fault_at_close h := by cases h

theorem witness_EncodeAndDecodeAgree : Instr.wellFormed .movr = true ∧ decode 0x2B#21 ≠ .nop := by decide

theorem witness_InternalCodesAreTheTable : 9 ≤ (0x9#4).toNat ∧ 9 ≤ (0xF#4).toNat := by decide

theorem witness_CommentCharacterOnlyAdvances :
    (0x78#21 : CodePoint) ∉
        [0x3E#21, 0x3C#21, 0x2B#21, 0x2D#21, 0x2E#21, 0x2C#21, 0x5B#21, 0x5D#21] ∧
      (running [0x78] 1 0 7).status = .run ∧ (running [0x78] 1 0 7).pc < (running [0x78] 1 0 7).progLen ∧
      (running [0x78] 1 0 7).store.read 0 = some (decode 0x78#21) := by decide

theorem witness_ResetForgetsTheRun :
    (running [0x2B] 1 0 7).capacity = (running [0x5D] 3 0 9).capacity ∧
      (∃ t, onEvent (.reset 1) (running [0x2B] 1 0 7) = .next t) ∧
      ∃ v, onEvent (.reset 1) (running [0x5D] 3 0 9) = .next v := ⟨rfl, ⟨_, rfl⟩, _, rfl⟩

/-- `N = 1` and a source that fills the store, the boundaries of R101. -/
theorem witness_Construction : 0 < 1 ∧ [0x2B#21].length ≤ (running [0x2B] 1 0 0).capacity := by decide

/-- The last index below the capacity, a core outside IDLE, and the first index above it. -/
theorem witness_LoadStoresDecodedCharacter :
    (State.reset.status = .idle ∧ 4294967294 < State.reset.capacity) ∧
      (running [0x2B] 1 0 0).status ≠ .idle ∧ State.reset.capacity ≤ 4294967295 := by decide

theorem witness_StartEntersRun :
    (State.reset.status = .idle ∧ 0 < State.reset.tapeSize ∧ 4294967295 ≤ State.reset.capacity) ∧
      (running [0x2B] 1 0 0).status ≠ .idle := by decide

/-- A capacity of 1 with two characters, a write at the capacity, a start above it, and an event that enters RUN. -/
theorem witness_IllegalConfigurationsAreRefused :
    0 < 1 ∧ (running [0x2B] 1 0 0).capacity < [0x2B#21, 0x2D#21].length ∧ State.reset.capacity ≤ 4294967295 ∧
      State.reset.status = .idle ∧ State.reset.capacity < 4294967296 ∧
      ∃ t, onEvent (.start 0) State.reset = .next t ∧ State.reset.status ≠ .run ∧ t.status = .run :=
  ⟨by decide, by decide, by decide, rfl, by decide, _, rfl, by decide, rfl⟩

/-- `pc = L`, at an empty and at a one-instruction program. -/
theorem witness_StepHaltsAtProgramEnd :
    (running [] 1 0 0).status = .run ∧ (running [] 1 0 0).progLen ≤ (running [] 1 0 0).pc ∧
      (running [0x2B] 1 1 0).progLen ≤ (running [0x2B] 1 1 0).pc := by decide

theorem witness_StepRunsDecodedInstruction :
    (running [0x2B] 1 0 0).status = .run ∧ (running [0x2B] 1 0 0).pc < (running [0x2B] 1 0 0).progLen ∧
      (running [0x2B] 1 0 0).store.read 0 = some (decode 0x2B#21) ∧
      (running [0x2B] 1 1 0).progLen ≤ (running [0x2B] 1 1 0).pc := by decide

theorem witness_NoStepOutsideRun :
    State.reset.status ≠ .run ∧
      (∃ t, onEvent (.start 0) State.reset = .next t ∧ t.status ≠ .idle) ∧
      (running [] 1 0 0).haltRun.ended ∧ ((running [0x5D] 1 1 1).raiseUnmatchedClose 0).ended ∧
      (∀ n, PortEvent.start 0 ≠ .reset n) ∧ ∃ t, onEvent (.start 0) (running [] 1 0 0).haltRun = .next t :=
  ⟨by decide, ⟨_, rfl, by decide⟩, .inl rfl, .inr rfl, fun _ h => (by cases h), _, rfl⟩

/-- Each of the four changes of `status`: reset, start, halt and fault. -/
theorem witness_StatusChangesOnlyAsRuled :
    (∃ t, onEvent (.reset 1) (running [] 1 0 0) = .next t ∧ t.status ≠ (running [] 1 0 0).status) ∧
      (∃ t, onEvent (.start 0) State.reset = .next t ∧ t.status ≠ State.reset.status) ∧
      (∃ t, onEvent (.turn true) (running [] 1 0 0) = .next t ∧ t.status ≠ (running [] 1 0 0).status) ∧
      ∃ t, onEvent (.turn true) (running [0x5D] 1 0 1) = .next t ∧ t.status ≠ (running [0x5D] 1 0 1).status :=
  ⟨⟨_, rfl, by decide⟩, ⟨_, rfl, by decide⟩, ⟨_, rfl, by decide⟩, _, rfl, by decide⟩

/-- The common hypotheses, then one state per clause: no bracket, an OPEN entered, a CLOSE left, an OPEN with and without
match, a CLOSE with and without match. -/
theorem witness_StepLeavesPcAsRuled :
    ((running [0x2B] 1 0 0).status = .run ∧ (running [0x2B] 1 0 0).pc < (running [0x2B] 1 0 0).progLen ∧
      ∃ t, step (running [0x2B] 1 0 0) = .next t) ∧
    ¬ isBracket ((running [0x2B] 1 0 0).entry 0) ∧
    ((running nested 1 0 5).entry 0 = .loopOpen ∧ (running nested 1 0 5).cell 0 ≠ 0#8) ∧
    ((running nested 1 4 0).entry 4 = .loopClose ∧ (running nested 1 4 0).cell 0 = 0#8) ∧
    ((running nested 1 0 0).entry 0 = .loopOpen ∧ (running nested 1 0 0).cell 0 = 0#8 ∧
      IsForwardMatch (running nested 1 0 0).entry 5 1 4) ∧
    ((running openTwice 1 0 0).entry 0 = .loopOpen ∧ (running openTwice 1 0 0).cell 0 = 0#8 ∧
      ∀ j, ¬ IsForwardMatch (running openTwice 1 0 0).entry 3 1 j) ∧
    ((running nested 1 4 1).entry 4 = .loopClose ∧ (running nested 1 4 1).cell 0 ≠ 0#8 ∧
      IsBackwardMatch (running nested 1 4 1).entry 4 0) ∧
    ((running closeTwice 1 2 7).entry 2 = .loopClose ∧ (running closeTwice 1 2 7).cell 0 ≠ 0#8 ∧
      ∀ k, ¬ IsBackwardMatch (running closeTwice 1 2 7).entry 2 k) :=
  ⟨⟨rfl, by decide, _, rfl⟩, (by rintro (h | h) <;> cases h), ⟨rfl, by decide⟩, ⟨rfl, rfl⟩,
    ⟨rfl, rfl, nested_forward⟩, ⟨rfl, rfl, openTwice_forward⟩,
    ⟨rfl, by decide, nested_backward⟩, ⟨rfl, by decide, closeTwice_backward⟩⟩

/-- A data pointer on the last cell of the tape: for INC, DEC, OUT and every instruction's completion. -/
theorem witness_dataPointerOnTape :
    (pointerAt 8 7).dp < (pointerAt 8 7).tapeSize ∧ (pointerAt 1 0).dp < (pointerAt 1 0).tapeSize := by decide

theorem witness_OutputEmitsCurrentCell :
    (running [0x2E] 1 0 65).status = .run ∧ (running [0x2E] 1 0 65).pc < (running [0x2E] 1 0 65).progLen ∧
      (running [0x2E] 1 0 65).entry 0 = .output ∧ (running [0x2E] 1 0 65).dp < (running [0x2E] 1 0 65).tapeSize := by
  decide

theorem witness_InputDoesNothing :
    (running [0x2C, 0x78] 1 0 0).entry 0 = .input ∧ (running [0x2C, 0x78] 1 0 0).entry 1 = .nop := by decide

theorem witness_UnknownDoesNothing :
    (0x00#21 : CodePoint) ∉
        [0x3E#21, 0x3C#21, 0x2B#21, 0x2D#21, 0x2E#21, 0x2C#21, 0x5B#21, 0x5D#21] ∧
      (running [0x78] 1 0 7).status = .run ∧ (running [0x78] 1 0 7).pc + 1 = (running [0x78] 1 0 7).progLen ∧
      (running [0x78] 1 0 7).entry 0 = .nop := by decide

/-- `pc` is already advanced: with a match, and at the run-off boundary `pc = L` without one. -/
theorem witness_OpenJumpsToForwardMatch :
    ((running nested 1 1 0).dp < (running nested 1 1 0).tapeSize ∧ (running nested 1 1 0).cell 0 = 0#8 ∧
      (running nested 1 1 0).pc ≤ (running nested 1 1 0).progLen ∧
      IsForwardMatch (running nested 1 1 0).entry 5 1 4) ∧
    ((running [0x5B] 1 1 0).cell 0 = 0#8 ∧ (running [0x5B] 1 1 0).pc ≤ (running [0x5B] 1 1 0).progLen ∧
      ∀ j, ¬ IsForwardMatch (running [0x5B] 1 1 0).entry 1 1 j) ∧
    (running nested 1 1 5).cell 0 ≠ 0#8 :=
  ⟨⟨by decide, rfl, by decide, nested_forward⟩,
    ⟨rfl, by decide, fun j h => absurd (Nat.lt_of_le_of_lt h.1 h.2.1) (Nat.lt_irrefl 1)⟩, by decide⟩

/-- With a match, without one, and at the boundary `c = 0`. -/
theorem witness_CloseJumpsToBackwardMatch :
    (running nested 1 5 0).cell 0 = 0#8 ∧
    ((running nested 1 5 1).pc = 4 + 1 ∧ (running nested 1 5 1).dp < (running nested 1 5 1).tapeSize ∧
      (running nested 1 5 1).cell 0 ≠ 0#8 ∧ IsBackwardMatch (running nested 1 5 1).entry 4 0) ∧
    ((running closeTwice 1 3 7).pc = 2 + 1 ∧ ∀ k, ¬ IsBackwardMatch (running closeTwice 1 3 7).entry 2 k) ∧
    ((running [0x5D] 1 1 1).pc = 0 + 1 ∧ ∀ k, ¬ IsBackwardMatch (running [0x5D] 1 1 1).entry 0 k) :=
  ⟨rfl, ⟨rfl, by decide, by decide, nested_backward⟩, ⟨rfl, closeTwice_backward⟩,
    rfl, close_first_backward⟩

/-- The first address outside the tape. -/
theorem witness_CellOutsideTapeStops :
    (pointerAt 8 8).tapeSize ≤ (pointerAt 8 8).dp ∧
      Instr.inc ∈ [Instr.inc, .dec, .output, .loopOpen, .loopClose] := by decide

/-- An execution with a next state, one per shape of next state: register only, storing, emitting, jumping, faulting. -/
theorem witness_executionCompletes :
    (∃ t, exec .movr (pointerAt 8 7) = .next t) ∧
    (∃ t, exec .inc (running [0x2B] 1 1 5) = .next t ∧ t.tape ≠ (running [0x2B] 1 1 5).tape) ∧
    (∃ t, exec .output (running [0x2E] 1 1 5) = .next t) ∧
    (∃ t, exec .loopOpen (running openTwice 1 1 0) = .next t) ∧
    ∃ t, exec .loopClose (running [0x5D] 1 1 1) = .next t ∧ t.status = .fault :=
  ⟨⟨_, rfl⟩, ⟨_, rfl, by decide⟩, ⟨_, rfl⟩, ⟨_, rfl⟩, _, rfl, rfl⟩

theorem witness_MemWriteSetsOneCell : 7 < (pointerAt 8 0).tapeSize := by decide

theorem witness_ProgramNeverChangesWhileRunning :
    (running [0x2B] 1 0 0).status ≠ .idle ∧ (∀ n, PortEvent.load 0 0x2D#21 ≠ .reset n) ∧
      (∃ t, onEvent (.load 0 0x2D#21) (running [0x2B] 1 0 0) = .next t) ∧
      ∃ t, onEvent (.turn true) (running [0x2B] 1 0 0) = .next t :=
  ⟨by decide, fun _ h => (by cases h), ⟨_, rfl⟩, _, rfl⟩

/-- A step at an OUT, at another instruction and at the program's end. -/
theorem witness_OutputIsAppendOnly :
    (∃ t, step (running [0x2E] 1 0 65) = .next t ∧ (running [0x2E] 1 0 65).entry 0 = .output) ∧
    (∃ t, step (running [0x2B] 1 0 65) = .next t ∧ (running [0x2B] 1 0 65).entry 0 ≠ .output) ∧
    (∃ t, step (running [0x2E] 1 1 65) = .next t ∧ (running [0x2E] 1 1 65).progLen ≤ 1) ∧
    (∀ n, PortEvent.turn true ≠ .reset n) ∧ ∃ t, onEvent (.turn true) (running [0x2E] 1 0 65) = .next t :=
  ⟨⟨_, rfl, rfl⟩, ⟨_, rfl, by decide⟩, ⟨_, rfl, by decide⟩, fun _ h => (by cases h), _, rfl⟩

/-- Two stores that agree below `L = 1` and differ above it. -/
theorem witness_OnlyEntriesBelowLengthAreRead :
    (∀ i, i < (running [0x2B] 1 0 0).progLen →
      State.entry { running [0x2B] 1 0 0 with store := storeFrom 0 [0x2B, 0x5D], storeFill := 3 } i =
        (running [0x2B] 1 0 0).entry i) ∧
      ∃ t, step (running [0x2B] 1 0 0) = .next t := by
  refine ⟨fun i hi => ?_, _, rfl⟩
  have hi : i < 1 := hi
  obtain rfl : i = 0 := by omega
  rfl

theorem witness_IncrementAndDecrementAreInverse :
    (running [0x2B] 1 0 255).dp < (running [0x2B] 1 0 255).tapeSize ∧ (running [0x2B] 1 0 255).tape.wf ∧
      (running [0x2B] 1 0 0).tape.wf := by decide

theorem witness_ScansComputeTheMatchingFunctions : 1 ≤ 5 ∧ 4 < 5 ∧ 5 ≤ 5 := by decide

theorem witness_MatchingIsSymmetric :
    ((running nested 1 0 0).entry 0 = .loopOpen ∧ scanForward (running nested 1 0 0).entry (5 - (0 + 1)) (0 + 1) 0 = 4) ∧
    ((running nested 1 0 0).entry 4 = .loopClose ∧ 4 < 5 ∧ scanBackward (running nested 1 0 0).entry 4 0 = some 0) := by
  decide

theorem witness_SkippedLoopEndsAfterItsClose :
    (running nested 1 0 0).status = .run ∧ (running nested 1 0 0).pc < (running nested 1 0 0).progLen ∧
      (running nested 1 0 0).entry 0 = .loopOpen ∧ (running nested 1 0 0).dp < (running nested 1 0 0).tapeSize ∧
      (running nested 1 0 0).cell 0 = 0#8 ∧ IsForwardMatch (running nested 1 0 0).entry 5 (0 + 1) 4 :=
  ⟨rfl, by decide, rfl, by decide, rfl, nested_forward⟩

theorem witness_RepeatedLoopReentersAtItsOpen :
    (running nested 1 4 1).status = .run ∧ (running nested 1 4 1).pc < (running nested 1 4 1).progLen ∧
      (running nested 1 4 1).entry 4 = .loopClose ∧ (running nested 1 4 1).dp < (running nested 1 4 1).tapeSize ∧
      (running nested 1 4 1).cell 0 ≠ 0#8 ∧ IsBackwardMatch (running nested 1 4 1).entry 4 0 :=
  ⟨rfl, by decide, rfl, by decide, by decide, nested_backward⟩

/-- The two unbalanced brackets, each with a zero and with a non-zero cell. -/
theorem witness_UnbalancedBracketCases :
    ((running openTwice 1 0 0).status = .run ∧ (running openTwice 1 0 0).pc < (running openTwice 1 0 0).progLen ∧
      (running openTwice 1 0 0).dp < (running openTwice 1 0 0).tapeSize) ∧
    ((running openTwice 1 0 0).entry 0 = .loopOpen ∧ (∀ j, ¬ IsForwardMatch (running openTwice 1 0 0).entry 3 (0 + 1) j) ∧
      (running openTwice 1 0 0).cell 0 = 0#8 ∧ (running openTwice 1 0 1).cell 0 ≠ 0#8) ∧
    ((running closeTwice 1 2 0).entry 2 = .loopClose ∧ (∀ k, ¬ IsBackwardMatch (running closeTwice 1 2 0).entry 2 k) ∧
      (running closeTwice 1 2 0).cell 0 = 0#8 ∧ (running closeTwice 1 2 7).cell 0 ≠ 0#8) :=
  ⟨⟨rfl, by decide, by decide⟩, ⟨rfl, openTwice_forward, rfl, by decide⟩,
    rfl, closeTwice_backward, rfl, by decide⟩

/-- P9 after its first step. -/
theorem witness_EmptyLoopNeverEnds :
    (running [0x2B, 0x5B, 0x5D] 1 1 1).status = .run ∧
      (running [0x2B, 0x5B, 0x5D] 1 1 1).pc + 1 < (running [0x2B, 0x5B, 0x5D] 1 1 1).progLen ∧
      (running [0x2B, 0x5B, 0x5D] 1 1 1).entry 1 = .loopOpen ∧
      (running [0x2B, 0x5B, 0x5D] 1 1 1).entry (1 + 1) = .loopClose ∧
      (running [0x2B, 0x5B, 0x5D] 1 1 1).dp < (running [0x2B, 0x5B, 0x5D] 1 1 1).tapeSize ∧
      (running [0x2B, 0x5B, 0x5D] 1 1 1).cell 0 ≠ 0#8 := by decide

/-- The loop of P2 `+[-]` and W4, entered with the smallest and the largest count. -/
theorem witness_DecrementingLoopRunsItsCount :
    (running [0x5B, 0x2D, 0x5D] 1 0 1).status = .run ∧
      (running [0x5B, 0x2D, 0x5D] 1 0 1).pc + 2 < (running [0x5B, 0x2D, 0x5D] 1 0 1).progLen ∧
      (running [0x5B, 0x2D, 0x5D] 1 0 1).entry 0 = .loopOpen ∧
      (running [0x5B, 0x2D, 0x5D] 1 0 1).entry (0 + 1) = .dec ∧
      (running [0x5B, 0x2D, 0x5D] 1 0 1).entry (0 + 2) = .loopClose ∧
      (running [0x5B, 0x2D, 0x5D] 1 0 1).dp < (running [0x5B, 0x2D, 0x5D] 1 0 1).tapeSize ∧
      (running [0x5B, 0x2D, 0x5D] 1 0 1).cell 0 ≠ 0#8 ∧ (running [0x5B, 0x2D, 0x5D] 1 0 255).cell 0 ≠ 0#8 := by
  decide

/-- `[>+<-]`, the loop of P3 shortened: it moves its cell to the next. -/
def moving : List CodePoint := [0x5B, 0x3E, 0x2B, 0x3C, 0x2D, 0x5D]

theorem moving_forward : IsForwardMatch (running moving 2 0 2).entry 6 1 5 := by
  refine ⟨by decide, by decide, ⟨rfl, rfl⟩, fun i h1 h2 => ?_⟩
  have hi : i = 1 ∨ i = 2 ∨ i = 3 ∨ i = 4 := by omega
  rcases hi with rfl | rfl | rfl | rfl <;> (rintro ⟨hclose, -⟩; revert hclose; decide)

/-- A state in which `[>+<-]`, begun on 2, enters its body: its first or its second iteration. -/
def movingEnters (b : State) : Prop :=
  b = running moving 2 1 2 ∨ b = { running moving 2 1 1 with tape := [(0, 1), (1, 1)] }

/-- `[>+<-]` on a zero cell, and on 2 with the states in which it enters its body. -/
theorem witness_LoopsRunAsOftenAsTheirCellSays :
    ((running moving 2 0 2).status = .run ∧ (running moving 2 0 2).pc < (running moving 2 0 2).progLen ∧
      (running moving 2 0 2).entry 0 = .loopOpen ∧ (running moving 2 0 2).dp < (running moving 2 0 2).tapeSize ∧
      IsForwardMatch (running moving 2 0 2).entry 6 (0 + 1) 5) ∧
    (running moving 2 0 0).cell 0 = 0#8 ∧
    (running moving 2 0 2).cell 0 ≠ 0#8 ∧ movingEnters { running moving 2 0 2 with pc := 0 + 1 } ∧
    ∀ b, movingEnters b → ∃ k v, BodyRun 0 5 k b v ∧ v.dp = b.dp ∧
      (v.cell v.dp).toNat + 1 = (b.cell b.dp).toNat ∧ (v.cell v.dp ≠ 0#8 → movingEnters { v with pc := 0 + 1 }) := by
  refine ⟨⟨rfl, by decide, rfl, by decide, moving_forward⟩, rfl, by decide, .inl rfl, ?_⟩
  rintro b (rfl | rfl)
  · refine ⟨4, { running moving 2 5 1 with tape := [(0, 1), (1, 1)] }, ?_, rfl, rfl, fun _ => .inr rfl⟩
    exact ⟨by decide, by decide, _, rfl, by decide, by decide, _, rfl, by decide, by decide, _, rfl,
      by decide, by decide, _, rfl, rfl, rfl, rfl⟩
  · refine ⟨4, { running moving 2 5 1 with tape := [(1, 2)] }, ?_, rfl, rfl, fun h => absurd rfl h⟩
    exact ⟨by decide, by decide, _, rfl, by decide, by decide, _, rfl, by decide, by decide, _, rfl,
      by decide, by decide, _, rfl, rfl, rfl, rfl⟩

/-- V-CLOSE-6, the boundary `c = 0`, and V-CLOSE-10. -/
theorem witness_UnmatchedCloseStopsTheCore :
    ((running [0x5D] 1 0 1).status = .run ∧ (running [0x5D] 1 0 1).pc = 0 ∧ 0 < (running [0x5D] 1 0 1).progLen ∧
      (running [0x5D] 1 0 1).entry 0 = .loopClose ∧ (running [0x5D] 1 0 1).dp < (running [0x5D] 1 0 1).tapeSize ∧
      (running [0x5D] 1 0 1).cell 0 ≠ 0#8 ∧ ∀ k, ¬ IsBackwardMatch (running [0x5D] 1 0 1).entry 0 k) ∧
    ((running closeTwice 1 2 7).pc = 2 ∧ 2 < (running closeTwice 1 2 7).progLen ∧
      ∀ k, ¬ IsBackwardMatch (running closeTwice 1 2 7).entry 2 k) :=
  ⟨⟨rfl, rfl, by decide, rfl, by decide, by decide, close_first_backward⟩, rfl, by decide, closeTwice_backward⟩

theorem witness_FaultIsPrecise : ∃ t, step (running closeTwice 1 2 7) = .next t ∧ t.status = .fault := ⟨_, rfl, rfl⟩

theorem witness_StatusWordsAsLaidOut :
    State.reset.faultIndex < 2 ^ 32 ∧ ({ State.reset with faultIndex := 4294967295 } : State).faultIndex < 2 ^ 32 := by
  decide

/-- An OUT at the last index of a program, and the three states without an event: at `L`, at another entry, and at an
OUT outside RUN. -/
theorem witness_OutReadyOnlyDelays :
    ((running [0x2E] 1 0 65).status = .run ∧ (running [0x2E] 1 0 65).pc < (running [0x2E] 1 0 65).progLen ∧
      (running [0x2E] 1 0 65).entry 0 = .output) ∧
    (running [0x2E] 1 1 65).progLen ≤ (running [0x2E] 1 1 65).pc ∧ (running [0x2B] 1 0 65).entry 0 ≠ .output ∧
    ({ running [0x2E] 1 0 65 with status := .idle } : State).status ≠ .run := by decide

theorem witness_StepKeepsTheInvariant :
    StateInv (running [0x2B, 0x2D] 2 1 5) ∧ ∃ t, step (running [0x2B, 0x2D] 2 1 5) = .next t :=
  ⟨witness_StateInv, _, rfl⟩

/-- Every kind of event on a state that meets the invariant. -/
theorem witness_PortEventsKeepTheInvariant :
    StateInv (running [0x2B, 0x2D] 2 1 5) ∧
      ∀ e ∈ [PortEvent.reset 1, .load 0 0x2B#21, .start 2, .writeStatus 7, .writeFaultIndex 7, .turn true],
        ∃ t, onEvent e (running [0x2B, 0x2D] 2 1 5) = .next t := by
  refine ⟨witness_StateInv, fun e he => ?_⟩
  simp only [List.mem_cons, List.not_mem_nil, or_false] at he
  rcases he with rfl | rfl | rfl | rfl | rfl | rfl <;> exact ⟨_, rfl⟩

/-- The host resets, loads `+]` and starts: a reachable running core. -/
theorem witness_reachable_run : ∃ s, Reachable s ∧ s.status = .run :=
  ⟨_, ⟨2, [.reset 1, .load 0 0x2B#21, .load 1 0x5D#21, .start 2], rfl⟩, rfl⟩

/-- An empty program halts at its first turn. -/
theorem witness_reachable_halt : ∃ s, Reachable s ∧ s.status = .halt :=
  ⟨_, ⟨0, [.reset 1, .start 0, .turn true], rfl⟩, rfl⟩

/-- P6 `+]`: a reachable core in FAULT. -/
theorem witness_reachable_fault : ∃ s, Reachable s ∧ s.status = .fault :=
  ⟨_, ⟨2, [.reset 1, .load 0 0x2B#21, .load 1 0x5D#21, .start 2, .turn true, .turn true], rfl⟩, rfl⟩

end Sys2Proof.Machine.Tests
end

/-! The reset state in the reference configuration, and the `start` event (spec/00_scope.md R7, R8). -/

namespace Sys2Proof.Machine

/-! ### The reset state -/

/-- R15, R31: a tape that lists nothing reads 0 at every address. -/
@[simp] theorem State.reset_cell (a : Nat) : State.reset.cell a = 0#8 := Memory.read_nil a

/-- Settles O8: the registers are the fields of `State.reset`, and the cells are those of its empty tape. -/
theorem resetStateHoldsSpecValues : Obligations.ResetStateHoldsSpecValues :=
  ⟨rfl, State.reset_cell, rfl, rfl, rfl, rfl, rfl, rfl⟩

/-! ### `start` -/

/-- R101: the two conditions on a configuration, as propositions. -/
@[simp] theorem configLegal_eq_true_iff (n length capacity : Nat) :
    configLegal n length capacity = true ↔ 0 < n ∧ length ≤ capacity := by
  simp only [configLegal, tapeSizeLegal, programFits, Bool.and_eq_true, decide_eq_true_eq]

/-- The case of `startRun_cases` that a legal `start` in IDLE takes. -/
theorem startRun_of_idle {len : Nat} {s : State} (hidle : s.status = .idle) (hsize : 0 < s.tapeSize)
    (hlen : len ≤ s.capacity) : startRun len s = (s.setProgLen len).setStatus .run :=
  if_pos ⟨hidle, (configLegal_eq_true_iff ..).mpr ⟨hsize, hlen⟩⟩

theorem startRun_of_not_idle {len : Nat} {s : State} (hstatus : s.status ≠ .idle) : startRun len s = s :=
  (startRun_cases len s).resolve_right fun ⟨hidle, _⟩ => hstatus hidle

/-- Settles O12: the `start` event is `startRun`, taken in IDLE with a legal configuration and outside IDLE. -/
theorem startEntersRun : Obligations.StartEntersRun := by
  intro len s
  constructor
  · intro hidle hsize hlen
    exact congrArg Host.Outcome.next (startRun_of_idle hidle hsize hlen)
  · intro hstatus
    exact congrArg Host.Outcome.next (startRun_of_not_idle hstatus)

end Sys2Proof.Machine

/-! The invariant of spec/10_state.md: reset meets it, every step and every event at the ports keep it, so it holds of
every reachable state (R15 to R22, R31, R57, R101). -/

namespace Sys2Proof.Machine

variable {i : Instr} {s t : State}

/-! ### What the invariant asks of each kind of state -/

/-- A state with the registers of the reset state meets the invariant, whatever its capacity and unspecified store
content, as long as it has a cell (R31, R99). -/
theorem stateInv_resetWith {n : Nat} (hn : 0 < n) (capacity fill : Nat) :
    StateInv { State.reset with tapeSize := n, capacity := capacity, storeFill := fill } where
  tapeSize_pos := hn
  progLen_le := Nat.zero_le _
  dp_lt := hn
  pc_le := Nat.le_refl _
  tape_wf := Memory.wf_nil
  tape_bounded _ hc := nomatch hc
  store_wf := List.Pairwise.nil
  store_bounded _ he := nomatch he
  idle_reset _ := ⟨rfl, rfl, rfl, rfl⟩
  halt_end h := nomatch h
  no_cause _ := ⟨rfl, rfl⟩
  fault_at_close h := nomatch h

/-- While the core runs, the elements an instruction may write are free within their bounds (R15, R17, R18). -/
theorem StateInv.of_run (h : StateInv s) (hrun : s.status = .run) {tape : Memory} {dp pc : Nat} (out : List Byte)
    (hwf : tape.wf) (hbounded : ∀ c ∈ tape, c.1 < s.tapeSize) (hdp : dp < s.tapeSize) (hpc : pc ≤ s.progLen) :
    StateInv { s with tape := tape, dp := dp, pc := pc, out := out } :=
  { h with
    dp_lt := hdp
    pc_le := hpc
    tape_wf := hwf
    tape_bounded := hbounded
    idle_reset := fun hidle => nomatch hrun.symm.trans hidle
    halt_end := fun hhalt => nomatch hrun.symm.trans hhalt
    fault_at_close := fun hfault => nomatch hrun.symm.trans hfault }

theorem StateInv.setPc (h : StateInv s) (hrun : s.status = .run) {v : Nat} (hv : v ≤ s.progLen) :
    StateInv (s.setPc v) :=
  h.of_run hrun s.out h.tape_wf h.tape_bounded h.dp_lt hv

theorem StateInv.setDp (h : StateInv s) (hrun : s.status = .run) {v : Nat} (hv : v < s.tapeSize) :
    StateInv (s.setDp v) :=
  h.of_run hrun s.out h.tape_wf h.tape_bounded hv h.pc_le

theorem StateInv.emit (h : StateInv s) (hrun : s.status = .run) (v : Byte) : StateInv (s.emit v) :=
  h.of_run hrun (s.out ++ [v]) h.tape_wf h.tape_bounded h.dp_lt h.pc_le

theorem StateInv.writeCurrentCell (h : StateInv s) (hrun : s.status = .run) (v : Byte) :
    StateInv (s.setTape (s.tape.write s.dp v)) :=
  h.of_run hrun s.out (Memory.wf_write h.tape_wf) (Memory.write_bounded h.tape_bounded h.dp_lt) h.dp_lt h.pc_le

/-- R57: a run halts at the program's end only. -/
theorem StateInv.haltRun (h : StateInv s) (hrun : s.status = .run) (hend : s.pc = s.progLen) : StateInv s.haltRun :=
  { h with
    idle_reset := fun hidle => nomatch hidle
    halt_end := fun _ => hend
    no_cause := fun _ => h.no_cause (by simp [hrun])
    fault_at_close := fun hfault => nomatch hfault }

/-- R87: the exception names a CLOSE of the program that was executed on a non-zero cell. -/
theorem StateInv.raiseUnmatchedClose (h : StateInv s) {c : Nat} (hc : c < s.progLen)
    (hclose : s.entry c = .loopClose) (hcell : s.cell s.dp ≠ 0#8) : StateInv (s.raiseUnmatchedClose c) :=
  { h with
    pc_le := Nat.le_of_lt hc
    idle_reset := fun hidle => nomatch hidle
    halt_end := fun hhalt => nomatch hhalt
    no_cause := fun hstatus => absurd rfl hstatus
    fault_at_close := fun _ => ⟨rfl, rfl, hc, hclose, hcell⟩ }

/-- R100: a load in IDLE lists one more entry of the store. -/
theorem StateInv.load (h : StateInv s) (hidle : s.status = .idle) {addr : Nat} (haddr : addr < s.capacity) :
    StateInv (s.setStore (s.store.write addr i)) :=
  { h with
    store_wf := Store.wf_write h.store_wf
    store_bounded := Store.write_bounded h.store_bounded haddr
    fault_at_close := fun hfault => nomatch hidle.symm.trans hfault }

/-- R56: a start in IDLE leaves `pc` at its reset value, which is inside a program of any length. -/
theorem StateInv.start (h : StateInv s) (hidle : s.status = .idle) {len : Nat} (hlen : len ≤ s.capacity) :
    StateInv ((s.setProgLen len).setStatus .run) :=
  { h with
    progLen_le := hlen
    pc_le := by
      obtain ⟨-, -, hpc, -⟩ := h.idle_reset hidle
      simp [hpc]
    idle_reset := fun hrun => nomatch hrun
    halt_end := fun hhalt => nomatch hhalt
    no_cause := fun _ => h.no_cause (by simp [hidle])
    fault_at_close := fun hfault => nomatch hfault }

/-! ### Steps and events -/

/-- An instruction that the fetch has handed to a running core, `pc` advanced past it, keeps the invariant. -/
theorem exec_keeps_stateInv (h : StateInv s) (hrun : s.status = .run) (hpc : 0 < s.pc)
    (hentry : s.entry (closeIndex s) = i) (hexec : exec i s = .next t) : StateInv t := by
  have hle := h.pc_le
  have hclose : closeIndex s < s.progLen := by unfold closeIndex; omega
  rcases exec_next_cases hexec with ⟨-, rfl⟩ | ⟨-, rfl⟩ | ⟨-, -, rfl⟩ | ⟨-, -, rfl⟩ | ⟨-, -, rfl⟩ | ⟨-, rfl⟩ |
    ⟨-, -, -, rfl⟩ | ⟨-, -, -, rfl⟩ | ⟨-, -, -, rfl⟩ | ⟨rfl, -, hcell, rfl⟩ | ⟨-, rfl⟩
  · exact h.setDp hrun (pointerRight_lt h.dp_lt)
  · exact h.setDp hrun (pointerLeft_lt h.dp_lt)
  · exact h.writeCurrentCell hrun _
  · exact h.writeCurrentCell hrun _
  · exact h.emit hrun _
  · exact h
  · obtain ⟨j, hj, -, hjle⟩ := jumpForward_spec s hle
    exact hj ▸ h.setPc hrun hjle
  · exact h
  · exact h
  · rcases jumpBackward_cases s with ⟨k, -, hk, -, hjump⟩ | ⟨-, hjump⟩
    · exact hjump ▸ h.setPc hrun (by omega)
    · exact hjump ▸ h.raiseUnmatchedClose hclose hentry hcell
  · exact h

theorem step_keeps_stateInv (h : StateInv s) (hstep : step s = .next t) : StateInv t := by
  obtain ⟨hrun, ⟨hend, rfl⟩ | ⟨hlt, hexec⟩⟩ := step_next_cases hstep
  · exact h.haltRun hrun (Nat.le_antisymm h.pc_le hend)
  · exact exec_keeps_stateInv (h.setPc hrun hlt) hrun (Nat.succ_pos _) rfl hexec

theorem onEvent_keeps_stateInv {e : PortEvent} (h : StateInv s) (he : onEvent e s = .next t) : StateInv t := by
  rcases onEvent_next_cases he with rfl | ⟨n, -, hn, rfl⟩ | ⟨addr, c, -, hidle, haddr, rfl⟩ |
    ⟨len, -, hidle, -, hlen, rfl⟩ | ⟨ready, -, hstep⟩
  · exact h
  · exact stateInv_resetWith hn _ _
  · exact h.load hidle haddr
  · exact h.start hidle hlen
  · exact step_keeps_stateInv h hstep

/-- Settles O50: the reset state has the reference tape size, which is positive. -/
theorem resetMeetsTheInvariant : Obligations.ResetMeetsTheInvariant :=
  stateInv_resetWith (by decide : 0 < Config.referenceTapeSize) _ _

/-- Settles O51: a step halts at the program's end or runs the instruction at `pc`, and both keep the invariant. -/
theorem stepKeepsTheInvariant : Obligations.StepKeepsTheInvariant :=
  fun _ _ => step_keeps_stateInv

/-- Settles O52: an event resets, loads in IDLE, starts from IDLE, steps, or changes nothing. -/
theorem portEventsKeepTheInvariant : Obligations.PortEventsKeepTheInvariant :=
  fun _ _ _ => onEvent_keeps_stateInv

/-! ### Reachable states -/

/-- A sequence of events that answers a next state went through the next state of its first event. -/
theorem runEvents_cons_next {e : PortEvent} {rest : List PortEvent} (h : runEvents (e :: rest) s = .next t) :
    ∃ u, onEvent e s = .next u ∧ runEvents rest u = .next t := by
  unfold runEvents at h
  split at h
  · exact ⟨_, ‹_›, h⟩
  · cases h
  · cases h

/-- Induction over reachable states: what holds at reset for every `LMAX` and is kept by every event holds of each. -/
theorem Reachable.induction {P : State → Prop} (hreset : ∀ capacity, P { State.reset with capacity := capacity })
    (hevent : ∀ e s t, P s → onEvent e s = .next t → P t) (h : Reachable s) : P s := by
  have keeps (events : List PortEvent) : ∀ u, P u → runEvents events u = .next s → P s := by
    induction events with
    | nil =>
      intro u hu hs
      exact Host.Outcome.next.inj hs ▸ hu
    | cons e rest ih =>
      intro u hu hs
      obtain ⟨v, hv, hrest⟩ := runEvents_cons_next hs
      exact ih v (hevent e u v hu hv) hrest
  obtain ⟨capacity, events, hs⟩ := h
  exact keeps events _ (hreset capacity) hs

theorem Reachable.stateInv (h : Reachable s) : StateInv s :=
  h.induction (stateInv_resetWith (by decide : 0 < Config.referenceTapeSize) · _) fun _ _ _ => onEvent_keeps_stateInv

/-- Settles O53: `dp < N` is a field of the invariant. -/
theorem dataPointerStaysOnTheTape : Obligations.DataPointerStaysOnTheTape :=
  fun _ h => h.stateInv.dp_lt

/-- Settles O54: both bounds on `pc` are fields of the invariant. -/
theorem programCounterStaysInProgram : Obligations.ProgramCounterStaysInProgram :=
  fun _ h => ⟨h.stateInv.pc_le, h.stateInv.halt_end⟩

/-- Settles O55: the invariant names the CLOSE at `pc`, which is `fault_index`. -/
theorem faultRegistersTellTheFault : Obligations.FaultRegistersTellTheFault := by
  intro s h
  refine ⟨h.stateInv.no_cause, fun hfault => ?_⟩
  obtain ⟨hcause, hindex, hpc, hclose, -⟩ := h.stateInv.fault_at_close hfault
  exact ⟨hcause, hindex, hpc, hindex ▸ hclose⟩

end Sys2Proof.Machine

/-! Program load and construction (spec/10_state.md R31, R30, spec/70_reset_and_hazards.md R99, R100, R101, R103). -/

namespace Sys2Proof.Machine

variable {i n addr : Nat} {c : CodePoint} {source : List CodePoint} {s u : State}

/-! ### One load -/

/-- The case of `loadEntry_cases` that a load in IDLE below the capacity takes. -/
theorem loadEntry_of_idle (hidle : s.status = .idle) (haddr : addr < s.capacity) :
    loadEntry addr c s = s.setStore (s.store.write addr (decode c)) :=
  if_pos ⟨hidle, haddr⟩

theorem loadEntry_of_ignored (h : s.status ≠ .idle ∨ s.capacity ≤ addr) : loadEntry addr c s = s :=
  (loadEntry_cases addr c s).resolve_right fun ⟨hidle, haddr, _⟩ =>
    h.elim (fun hstatus => hstatus hidle) (Nat.not_le_of_lt haddr)

theorem loadEntry_entry_self (hidle : s.status = .idle) (haddr : addr < s.capacity) :
    (loadEntry addr c s).entry addr = decode c := by
  simp [loadEntry_of_idle hidle haddr]

theorem loadEntry_entry_of_ne (h : i ≠ addr) : (loadEntry addr c s).entry i = s.entry i := by
  rcases loadEntry_cases addr c s with hload | ⟨-, -, hload⟩
  · rw [hload]
  · rw [hload, State.setStore_entry, Store.read_write_of_ne h]
    rfl

/-- A load writes the store and nothing else. -/
theorem loadEntry_eq_setStore (addr : Nat) (c : CodePoint) (s : State) :
    ∃ st, loadEntry addr c s = s.setStore st := by
  rcases loadEntry_cases addr c s with hload | ⟨-, -, hload⟩
  · exact ⟨s.store, hload⟩
  · exact ⟨_, hload⟩

/-- Settles O11: the event is `loadEntry`, taken in IDLE below the capacity and ignored otherwise. -/
theorem loadStoresDecodedCharacter : Obligations.LoadStoresDecodedCharacter := by
  intro addr c s
  constructor
  · intro hidle haddr
    obtain ⟨st, hst⟩ := loadEntry_eq_setStore addr c s
    refine ⟨loadEntry addr c s, rfl, loadEntry_entry_self hidle haddr, fun _ => loadEntry_entry_of_ne, ?_⟩
    rw [hst]
    rfl
  · intro hignored
    exact congrArg Host.Outcome.next (loadEntry_of_ignored hignored)

/-! ### A whole source text -/

/-- Loading a source text writes the store and nothing else. -/
theorem loadSource_eq_setStore (addr : Nat) (source : List CodePoint) (s : State) :
    ∃ st, loadSource addr source s = s.setStore st := by
  induction source generalizing addr s with
  | nil => exact ⟨s.store, rfl⟩
  | cons c rest ih =>
    obtain ⟨st, hload⟩ := loadEntry_eq_setStore addr c s
    obtain ⟨st', hrest⟩ := ih (addr + 1) (loadEntry addr c s)
    refine ⟨st', hrest.trans ?_⟩
    rw [hload]
    rfl

theorem loadSource_entry_of_lt (h : i < addr) : (loadSource addr source s).entry i = s.entry i := by
  induction source generalizing addr s with
  | nil => rfl
  | cons c rest ih => exact (ih (Nat.lt_succ_of_lt h)).trans (loadEntry_entry_of_ne h.ne)

/-- R100: each character's entry holds its decoding; a later load does not touch it. -/
theorem loadSource_entry (hidle : s.status = .idle) (hfit : addr + source.length ≤ s.capacity)
    (hc : source[i]? = some c) : (loadSource addr source s).entry (addr + i) = decode c := by
  induction source generalizing addr s i with
  | nil => simp at hc
  | cons head rest ih =>
    rw [List.length_cons] at hfit
    cases i with
    | zero =>
      obtain rfl : head = c := by simpa using hc
      exact (loadSource_entry_of_lt (Nat.lt_succ_self addr)).trans (loadEntry_entry_self hidle (by omega))
    | succ i =>
      obtain ⟨st, hload⟩ := loadEntry_eq_setStore addr head s
      have hrest : (loadSource (addr + 1) rest (loadEntry addr head s)).entry (addr + 1 + i) = decode c :=
        ih (by simpa [hload] using hidle) (by simp [hload]; omega) (by simpa using hc)
      rwa [Nat.add_right_comm, Nat.add_assoc] at hrest

/-- The outcome of a construction that R101 does not refuse. -/
theorem construct_of_legal (hn : 0 < n) (hfit : source.length ≤ s.capacity) :
    construct n source s = .next ((loadSource 0 source (s.afterReset n)).setProgLen source.length) := by
  simp [construct, tapeSizeLegal, programFits, hn, hfit]

/-- Settles O9: loading after reset fills the store and leaves every other element at its reset value. -/
theorem constructionGivesTheResetTable : Obligations.ConstructionGivesTheResetTable := by
  intro n source s hn hfit
  refine ⟨_, construct_of_legal hn hfit, ?_⟩
  have hentry (i : Nat) (c : CodePoint) (hc : source[i]? = some c) :
      (loadSource 0 source (s.afterReset n)).entry i = decode c := by
    simpa using loadSource_entry (addr := 0) (State.afterReset_status s n) (by simpa using hfit) hc
  obtain ⟨st, hst⟩ := loadSource_eq_setStore 0 source (s.afterReset n)
  rw [hst] at hentry ⊢
  exact ⟨rfl, rfl, hentry, fun _ => rfl, rfl, rfl, rfl, rfl, rfl, rfl⟩

/-! ### Construction by events -/

theorem onEvent_reset_of_pos (hn : 0 < n) : onEvent (.reset n) s = .next (s.afterReset n) :=
  if_pos (decide_eq_true hn)

theorem runEvents_cons_of_next {e : PortEvent} {rest : List PortEvent} (h : onEvent e s = .next u) :
    runEvents (e :: rest) s = runEvents rest u := by
  simp only [runEvents, h]

/-- The load protocol at the ports does what `loadSource` does. -/
theorem runEvents_loadEvents_append (addr : Nat) (source : List CodePoint) (rest : List PortEvent) (s : State) :
    runEvents (loadEvents addr source ++ rest) s = runEvents rest (loadSource addr source s) := by
  induction source generalizing addr s with
  | nil => rfl
  | cons c source ih => exact ih (addr + 1) (loadEntry addr c s)

/-- Settles O10: reset and the load protocol leave the constructed state but for `L`, which `start` samples. -/
theorem constructionRefinesLoadProtocol : Obligations.ConstructionRefinesLoadProtocol := by
  intro n source s hn hfit
  refine ⟨_, construct_of_legal hn hfit, ?_⟩
  have hstart : startRun source.length (loadSource 0 source (s.afterReset n)) =
      ((loadSource 0 source (s.afterReset n)).setProgLen source.length).setStatus .run := by
    obtain ⟨st, hst⟩ := loadSource_eq_setStore 0 source (s.afterReset n)
    rw [hst]
    exact startRun_of_idle rfl hn hfit
  rw [runEvents_cons_of_next (onEvent_reset_of_pos hn), runEvents_loadEvents_append]
  exact congrArg Host.Outcome.next hstart

end Sys2Proof.Machine

/-! What an instruction and a step write, and the output history they do not read (spec/10_state.md R14, R15, R24,
spec/20_memory.md R43, spec/41_tape_pointer.md R72, spec/42_io.md R75). -/

namespace Sys2Proof.Machine

variable {i : Instr} {s t : State}

/-! ### Frames of an instruction and of a step -/

/-- `exec_next_cases` by the register an instruction writes: nothing, `dp`, the current cell, `out`, `pc`, or the
run-control registers. -/
theorem exec_next_writes (h : exec i s = .next t) :
    (i ≠ .output ∧ t = s) ∨
    ((i = .movr ∨ i = .movl) ∧ ∃ d, t = s.setDp d) ∨
    ((i = .inc ∨ i = .dec) ∧ ∃ v, t = s.setTape (s.tape.write s.dp v)) ∨
    (i = .output ∧ t = s.emit (s.cell s.dp)) ∨
    (isBracket i ∧ ∃ p, t = s.setPc p) ∨
    (i = .loopClose ∧ s.cell s.dp ≠ 0#8 ∧ scanBackward s.entry (closeIndex s) 0 = none ∧
      t = s.raiseUnmatchedClose (closeIndex s)) := by
  rcases exec_next_cases h with ⟨rfl, ht⟩ | ⟨rfl, ht⟩ | ⟨rfl, -, ht⟩ | ⟨rfl, -, ht⟩ | ⟨rfl, -, ht⟩ | ⟨rfl, ht⟩ |
    ⟨rfl, -, -, ht⟩ | ⟨rfl, -, -, ht⟩ | ⟨rfl, -, -, ht⟩ | ⟨rfl, -, hcell, ht⟩ | ⟨rfl, ht⟩
  · exact .inr (.inl ⟨.inl rfl, _, ht⟩)
  · exact .inr (.inl ⟨.inr rfl, _, ht⟩)
  · exact .inr (.inr (.inl ⟨.inl rfl, _, ht⟩))
  · exact .inr (.inr (.inl ⟨.inr rfl, _, ht⟩))
  · exact .inr (.inr (.inr (.inl ⟨rfl, ht⟩)))
  · exact .inl ⟨by decide, ht⟩
  · exact .inr (.inr (.inr (.inr (.inl ⟨.inl rfl, _, ht⟩))))
  · exact .inl ⟨by decide, ht⟩
  · exact .inl ⟨by decide, ht⟩
  · rcases jumpBackward_cases s with ⟨k, -, -, -, hjump⟩ | ⟨hnone, hjump⟩
    · exact .inr (.inr (.inr (.inr (.inl ⟨.inr rfl, k, ht.trans hjump⟩))))
    · exact .inr (.inr (.inr (.inr (.inr ⟨rfl, hcell, hnone, ht.trans hjump⟩))))
  · exact .inl ⟨by decide, ht⟩

/-- Settles O30: each kind of write leaves the other registers alone. -/
theorem instructionsWriteOnlyTheirOwn : Obligations.InstructionsWriteOnlyTheirOwn := by
  intro i s t h
  rcases exec_next_writes h with ⟨-, rfl⟩ | ⟨hi, d, rfl⟩ | ⟨hi, v, rfl⟩ | ⟨rfl, rfl⟩ | ⟨hi, p, rfl⟩ |
    ⟨rfl, -, -, rfl⟩
  case inr.inl => rcases hi with rfl | rfl <;> simp
  case inr.inr.inl =>
    have hcell (a : Nat) (ha : a ≠ s.dp) : (s.tape.write s.dp v).read a = s.cell a := Memory.read_write_of_ne ha
    rcases hi with rfl | rfl <;> simpa [effectiveAddress] using hcell
  case inr.inr.inr.inr.inl => simp [hi]
  all_goals simp [isBracket]

theorem exec_entry (h : exec i s = .next t) : t.entry = s.entry := by
  obtain ⟨⟨-, -, -, hstore, hfill⟩, -⟩ := instructionsWriteOnlyTheirOwn i s t h
  unfold State.entry
  rw [hstore, hfill]

theorem exec_progLen (h : exec i s = .next t) : t.progLen = s.progLen := by
  obtain ⟨⟨-, -, hlen, -⟩, -⟩ := instructionsWriteOnlyTheirOwn i s t h
  exact hlen

theorem exec_pc_of_not_bracket (h : exec i s = .next t) (hi : ¬ isBracket i) : t.pc = s.pc := by
  obtain ⟨-, -, -, -, -, hpc, -⟩ := instructionsWriteOnlyTheirOwn i s t h
  exact hpc hi

/-- R43: a step leaves the program as it is. -/
theorem step_keeps_program (h : step s = .next t) : t.entry = s.entry ∧ t.progLen = s.progLen := by
  obtain ⟨-, ⟨-, rfl⟩ | ⟨-, hexec⟩⟩ := step_next_cases h
  · exact ⟨rfl, rfl⟩
  · exact ⟨exec_entry (s := s.advance) hexec, exec_progLen (s := s.advance) hexec⟩

/-- Settles O32: outside IDLE only a step can change anything short of reset, and it leaves the program. -/
theorem programNeverChangesWhileRunning : Obligations.ProgramNeverChangesWhileRunning := by
  intro e s t hstatus hreset h
  rcases onEvent_next_cases h with rfl | ⟨n, he, -⟩ | ⟨-, -, -, hidle, -⟩ | ⟨-, -, hidle, -⟩ | ⟨-, -, hstep⟩
  · exact ⟨rfl, rfl⟩
  · exact absurd he (hreset n)
  · exact absurd hidle hstatus
  · exact absurd hidle hstatus
  · exact step_keeps_program hstep

/-! ### The output -/

/-- What an instruction appends to `out`: the current cell at OUT, and nothing otherwise (R75). -/
def execEmits (i : Instr) (s : State) : List Byte :=
  if i = .output then [s.cell s.dp] else []

/-- What a step appends to `out`. -/
def stepEmits (s : State) : List Byte :=
  if s.pc < s.progLen then execEmits (s.entry s.pc) s else []

theorem exec_out (h : exec i s = .next t) : t.out = s.out ++ execEmits i s := by
  rcases exec_next_writes h with ⟨hi, rfl⟩ | ⟨rfl | rfl, d, rfl⟩ | ⟨rfl | rfl, v, rfl⟩ | ⟨rfl, rfl⟩ |
    ⟨rfl | rfl, p, rfl⟩ | ⟨rfl, -, -, rfl⟩
  case inl => simp [execEmits, hi]
  all_goals simp [execEmits]

theorem step_out (h : step s = .next t) : t.out = s.out ++ stepEmits s := by
  obtain ⟨-, ⟨hend, rfl⟩ | ⟨hlt, hexec⟩⟩ := step_next_cases h
  · simp [stepEmits, Nat.not_lt.mpr hend]
  · rw [stepEmits, if_pos hlt]
    exact exec_out (s := s.advance) hexec

/-- Settles O33: a step appends `stepEmits`, and a load or a start leaves `out`. -/
theorem outputIsAppendOnly : Obligations.OutputIsAppendOnly := by
  refine ⟨rfl, fun s t h => ⟨fun hlt hi => ?_, fun hother => ?_⟩, fun e s t hreset h => ?_⟩
  · rw [step_out h, stepEmits, if_pos hlt, execEmits, if_pos hi]
  · have hnone : stepEmits s = [] := by
      rcases hother with hend | hi
      · exact if_neg (Nat.not_lt.mpr hend)
      · simp [stepEmits, execEmits, hi]
    rw [step_out h, hnone, List.append_nil]
  · rcases onEvent_next_cases h with rfl | ⟨n, he, -⟩ | ⟨addr, c, -, -, -, rfl⟩ | ⟨len, -, -, -, -, rfl⟩ |
      ⟨ready, -, hstep⟩
    · exact ⟨[], (List.append_nil _).symm⟩
    · exact absurd he (hreset n)
    · exact ⟨[], (List.append_nil _).symm⟩
    · exact ⟨[], (List.append_nil _).symm⟩
    · exact ⟨_, step_out hstep⟩

theorem jumpBackward_of_some {k : Nat} (h : scanBackward s.entry (closeIndex s) 0 = some k) :
    jumpBackward s = s.setPc k := by
  simp only [jumpBackward, h]

theorem jumpBackward_of_none (h : scanBackward s.entry (closeIndex s) 0 = none) :
    jumpBackward s = s.raiseUnmatchedClose (closeIndex s) := by
  simp only [jumpBackward, h]

/-! ### Another output history -/

/-- The same state with another output history. -/
def State.setOut (s : State) (history : List Byte) : State := { s with out := history }

theorem jumpBackward_setOut (s : State) (history : List Byte) :
    jumpBackward (s.setOut history) = (jumpBackward s).setOut history := by
  cases hscan : scanBackward s.entry (closeIndex s) 0 with
  | none =>
    rw [jumpBackward_of_none hscan]
    exact jumpBackward_of_none hscan
  | some k =>
    rw [jumpBackward_of_some hscan]
    exact jumpBackward_of_some hscan

/-- An instruction other than OUT carries any output history along. -/
theorem exec_setOut_of_ne_output (h : exec i s = .next t) (hi : i ≠ .output) (history : List Byte) :
    exec i (s.setOut history) = .next (t.setOut history) := by
  have hopen := exec_loopOpen_of_lt (s := s.setOut history)
  have hclose := exec_loopClose_of_lt (s := s.setOut history)
  rcases exec_next_cases h with ⟨rfl, rfl⟩ | ⟨rfl, rfl⟩ | ⟨rfl, hdp, rfl⟩ | ⟨rfl, hdp, rfl⟩ | ⟨rfl, -⟩ | ⟨rfl, rfl⟩ |
    ⟨rfl, hdp, hz, rfl⟩ | ⟨rfl, hdp, hz, rfl⟩ | ⟨rfl, hdp, hz, rfl⟩ | ⟨rfl, hdp, hz, rfl⟩ | ⟨rfl, rfl⟩
  · rfl
  · rfl
  · exact updateCurrentCell_of_lt (s := s.setOut history) hdp
  · exact updateCurrentCell_of_lt (s := s.setOut history) hdp
  · exact absurd rfl hi
  · rfl
  · exact (hopen hdp).trans (congrArg _ (if_pos hz))
  · exact (hopen hdp).trans (congrArg _ (if_neg hz))
  · exact (hclose hdp).trans (congrArg _ (if_pos hz))
  · exact (hclose hdp).trans (congrArg _ ((if_neg hz).trans (jumpBackward_setOut s history)))
  · rfl

/-- OUT's outcome on a cell of the tape (R73). -/
theorem exec_output_of_lt (h : s.dp < s.tapeSize) : exec .output s = .next (s.emit (s.cell s.dp)) :=
  withCurrentCell_of_lt (k := fun v => .next (s.emit v)) h

/-- OUT appends to whatever history it finds. -/
theorem exec_setOut (h : exec i s = .next t) (history : List Byte) :
    exec i (s.setOut history) = .next (t.setOut (history ++ execEmits i s)) := by
  by_cases hi : i = .output
  · subst hi
    obtain ⟨hdp, rfl⟩ : s.dp < s.tapeSize ∧ t = s.emit (s.cell s.dp) := by simpa using exec_next_cases h
    exact exec_output_of_lt (s := s.setOut history) hdp
  · rw [execEmits, if_neg hi, List.append_nil]
    exact exec_setOut_of_ne_output h hi history

/-- The converse of `step_next_cases` for the halting step (R57). -/
theorem step_of_end (hrun : s.status = .run) (hend : s.progLen ≤ s.pc) : step s = .next s.haltRun := by
  simp only [step, fetchExecute, hrun, runStep, if_pos hend]

/-- The converse of `step_next_cases` for a step that runs an instruction (R58). -/
theorem step_of_lt (hrun : s.status = .run) (hlt : s.pc < s.progLen) : step s = exec (s.entry s.pc) s.advance := by
  simp only [step, fetchExecute, hrun, runStep, if_neg (Nat.not_le_of_lt hlt)]

theorem step_setOut (h : step s = .next t) (history : List Byte) :
    step (s.setOut history) = .next (t.setOut (history ++ stepEmits s)) := by
  obtain ⟨hrun, ⟨hend, rfl⟩ | ⟨hlt, hexec⟩⟩ := step_next_cases h
  · rw [stepEmits, if_neg (Nat.not_lt.mpr hend), List.append_nil]
    exact step_of_end (s := s.setOut history) hrun hend
  · rw [stepEmits, if_pos hlt]
    exact (step_of_lt (s := s.setOut history) hrun hlt).trans (exec_setOut hexec history)

/-- Settles O34: what a step appends is `stepEmits`, whatever the history. -/
theorem outputHistoryIsNotRead : Obligations.OutputHistoryIsNotRead :=
  fun s _ history h => ⟨stepEmits s, step_out h, step_setOut h history⟩

end Sys2Proof.Machine

/-! The words the host reads (spec/10_state.md R20, R21, R23). -/

namespace Sys2Proof.Machine

theorem State.statusWord_state (s : State) : s.statusWord.extractLsb' 0 2 = s.status.code :=
  BitVec.extractLsb'_append_eq_right

theorem State.statusWord_cause (s : State) : s.statusWord.extractLsb' 2 2 = s.cause.code :=
  (BitVec.extractLsb'_append_eq_of_le (by decide)).trans BitVec.extractLsb'_append_eq_right

theorem State.statusWord_reserved (s : State) : s.statusWord.extractLsb' 4 28 = 0#28 :=
  (BitVec.extractLsb'_append_eq_of_le (by decide)).trans BitVec.extractLsb'_append_eq_left

/-- R21: the reserved causes 2 and 3 have no constructor. -/
theorem Cause.code_le (c : Cause) : c.code.toNat ≤ 1 := by
  cases c <;> decide

theorem State.faultIndexWord_toNat {s : State} (h : s.faultIndex < 2 ^ 32) :
    s.faultIndexWord.toNat = s.faultIndex := by
  rw [State.faultIndexWord, if_pos h, BitVec.toNat_ofNat, Nat.mod_eq_of_lt h]

/-- Settles O48: field by field; the two write events answer the state they found. -/
theorem statusWordsAsLaidOut : Obligations.StatusWordsAsLaidOut :=
  ⟨fun s => ⟨s.statusWord_state, s.statusWord_cause, s.cause.code_le, s.statusWord_reserved,
      State.faultIndexWord_toNat⟩,
    rfl, rfl, fun _ _ => ⟨rfl, rfl⟩⟩

end Sys2Proof.Machine

/-! The scans of OPEN and CLOSE answer the matching functions (spec/43_loops.md R77 to R79). Each induction is over a
match at any nesting depth, the depth the scan carries along. -/

namespace Sys2Proof.Machine

variable {entry : Nat → Instr} {x : Instr} {a b d d' i j k left n s L : Nat}

/-! ### Counting from either end -/

@[simp] theorem countIn_self (entry : Nat → Instr) (x : Instr) (a : Nat) : countIn entry x a a = 0 := by
  simp [countIn]

theorem countIn_of_lt (h : a < b) :
    countIn entry x a b = (if entry a = x then 1 else 0) + countIn entry x (a + 1) b := by
  obtain ⟨m, hm⟩ : ∃ m, b - a = m + 1 := ⟨b - (a + 1), by omega⟩
  have hm' : b - (a + 1) = m := by omega
  simp [countIn, hm, hm', List.range'_succ, List.countP_cons, Nat.add_comm]

theorem countIn_succ (h : a ≤ b) :
    countIn entry x a (b + 1) = countIn entry x a b + (if entry b = x then 1 else 0) := by
  have hsucc : b + 1 - a = b - a + 1 := by omega
  have hlast : a + (b - a) = b := by omega
  simp [countIn, hsucc, List.range'_1_concat, hlast, List.countP_cons]

/-! ### The forward scan -/

/-- `ClosesFrom` with `d` inner loops still open at `s`: all of them are closed again before the CLOSE at `j`. -/
def ClosesAtDepth (entry : Nat → Instr) (s d j : Nat) : Prop :=
  entry j = .loopClose ∧ countIn entry .loopOpen s j + d = countIn entry .loopClose s j

/-- `IsForwardMatch` with `d` inner loops still open at `s`. -/
def IsForwardMatchAt (entry : Nat → Instr) (L s d j : Nat) : Prop :=
  s ≤ j ∧ j < L ∧ ClosesAtDepth entry s d j ∧ ∀ i, s ≤ i → i < j → ¬ ClosesAtDepth entry s d i

theorem isForwardMatchAt_zero : IsForwardMatchAt entry L s 0 j ↔ IsForwardMatch entry L s j := Iff.rfl

theorem closesAtDepth_self : ClosesAtDepth entry s d s ↔ entry s = .loopClose ∧ d = 0 := by
  simp [ClosesAtDepth]

/-- One entry on, the depth has risen at an OPEN and fallen at a CLOSE. -/
theorem closesAtDepth_next
    (hd : d + (if entry s = .loopOpen then 1 else 0) = d' + (if entry s = .loopClose then 1 else 0)) (h : s < j) :
    ClosesAtDepth entry s d j ↔ ClosesAtDepth entry (s + 1) d' j := by
  unfold ClosesAtDepth
  rw [countIn_of_lt h, countIn_of_lt h]
  exact and_congr_right fun _ => by omega

/-- A match that is not at `s` is one from the next entry on. -/
theorem isForwardMatchAt_next (hself : ¬ ClosesAtDepth entry s d s)
    (hd : d + (if entry s = .loopOpen then 1 else 0) = d' + (if entry s = .loopClose then 1 else 0)) :
    IsForwardMatchAt entry L s d j ↔ IsForwardMatchAt entry L (s + 1) d' j := by
  constructor
  · rintro ⟨hs, hL, hj, hleast⟩
    have hlt : s < j := lt_of_le_of_ne hs fun h => hself (h ▸ hj)
    exact ⟨hlt, hL, (closesAtDepth_next hd hlt).mp hj,
      fun i hi hij => mt (closesAtDepth_next hd hi).mpr (hleast i (by omega) hij)⟩
  · rintro ⟨hs, hL, hj, hleast⟩
    refine ⟨by omega, hL, (closesAtDepth_next hd hs).mpr hj, fun i hi hij => ?_⟩
    rcases Nat.eq_or_lt_of_le hi with rfl | hlt
    · exact hself
    · exact mt (closesAtDepth_next hd hlt).mp (hleast i hlt hij)

/-- A CLOSE outside any loop is the match itself. -/
theorem isForwardMatchAt_of_closes (hself : ClosesAtDepth entry s d s) (hL : s < L) :
    IsForwardMatchAt entry L s d j ↔ s = j := by
  constructor
  · rintro ⟨hs, -, -, hleast⟩
    exact (Nat.eq_or_lt_of_le hs).resolve_right fun hlt => hleast s (Nat.le_refl s) hlt hself
  · rintro rfl
    exact ⟨Nat.le_refl _, hL, hself, fun i hi his => absurd his (Nat.not_lt.mpr hi)⟩

theorem scanForward_eq_iff (hL : s + left = L) :
    scanForward entry left s d = j ∧ j < L ↔ IsForwardMatchAt entry L s d j := by
  induction left generalizing s d with
  | zero =>
    simp only [scanForward, IsForwardMatchAt]
    omega
  | succ left ih =>
    have hnext : s + 1 + left = L := by omega
    cases hi : entry s with
    | loopOpen =>
      simp only [scanForward, hi, ih hnext]
      exact (isForwardMatchAt_next (by simp [closesAtDepth_self, hi]) (by simp [hi])).symm
    | loopClose =>
      by_cases hd : d = 0
      · rw [isForwardMatchAt_of_closes (closesAtDepth_self.mpr ⟨hi, hd⟩) (by omega)]
        simp only [scanForward, hi, hd, if_true]
        omega
      · simp only [scanForward, hi, hd, if_false, ih hnext]
        exact (isForwardMatchAt_next (by simp [closesAtDepth_self, hd]) (by simp [hi]; omega)).symm
    | _ =>
      simp only [scanForward, hi, ih hnext]
      exact (isForwardMatchAt_next (by simp [closesAtDepth_self, hi]) (by simp [hi])).symm

/-- R77: the forward scan stops below `L` exactly at `fwd(s)`. -/
theorem scanForward_eq_iff_isForwardMatch (hs : s ≤ L) :
    scanForward entry (L - s) s 0 = j ∧ j < L ↔ IsForwardMatch entry L s j :=
  (scanForward_eq_iff (by omega)).trans isForwardMatchAt_zero

/-- R77: the forward scan runs off exactly when `fwd(s)` is none. -/
theorem scanForward_eq_length_iff (hs : s ≤ L) :
    scanForward entry (L - s) s 0 = L ↔ ∀ j, ¬ IsForwardMatch entry L s j := by
  have hle := (scanForward_bounds entry (L - s) s 0).2
  simp only [← scanForward_eq_iff_isForwardMatch hs, not_and]
  constructor
  · rintro hend j rfl
    omega
  · intro hnone
    have := hnone _ rfl
    omega

/-! ### The backward scan -/

/-- `OpensTo` with `d` inner loops, closed at or after `c`, still to be opened: all of them open after the OPEN at `k`. -/
def OpensAtDepth (entry : Nat → Instr) (c d k : Nat) : Prop :=
  entry k = .loopOpen ∧ countIn entry .loopClose (k + 1) c + d = countIn entry .loopOpen (k + 1) c

/-- `IsBackwardMatch` with `d` inner loops still to be opened. -/
def IsBackwardMatchAt (entry : Nat → Instr) (c d k : Nat) : Prop :=
  k < c ∧ OpensAtDepth entry c d k ∧ ∀ i, k < i → i < c → ¬ OpensAtDepth entry c d i

theorem isBackwardMatchAt_zero : IsBackwardMatchAt entry n 0 k ↔ IsBackwardMatch entry n k := Iff.rfl

theorem opensAtDepth_last : OpensAtDepth entry (n + 1) d n ↔ entry n = .loopOpen ∧ d = 0 := by
  simp [OpensAtDepth]

/-- One entry back, the depth has risen at a CLOSE and fallen at an OPEN. -/
theorem opensAtDepth_next
    (hd : d + (if entry n = .loopClose then 1 else 0) = d' + (if entry n = .loopOpen then 1 else 0)) (h : k < n) :
    OpensAtDepth entry (n + 1) d k ↔ OpensAtDepth entry n d' k := by
  unfold OpensAtDepth
  rw [countIn_succ (a := k + 1) h, countIn_succ (a := k + 1) h]
  exact and_congr_right fun _ => by omega

/-- A match that is not at `n` is one below it. -/
theorem isBackwardMatchAt_next (hlast : ¬ OpensAtDepth entry (n + 1) d n)
    (hd : d + (if entry n = .loopClose then 1 else 0) = d' + (if entry n = .loopOpen then 1 else 0)) :
    IsBackwardMatchAt entry (n + 1) d k ↔ IsBackwardMatchAt entry n d' k := by
  constructor
  · rintro ⟨hk, hopens, hgreatest⟩
    have hlt : k < n := lt_of_le_of_ne (Nat.le_of_lt_succ hk) fun h => hlast (h ▸ hopens)
    exact ⟨hlt, (opensAtDepth_next hd hlt).mp hopens,
      fun i hki hi => mt (opensAtDepth_next hd hi).mpr (hgreatest i hki (by omega))⟩
  · rintro ⟨hk, hopens, hgreatest⟩
    refine ⟨by omega, (opensAtDepth_next hd hk).mpr hopens, fun i hki hi => ?_⟩
    rcases Nat.eq_or_lt_of_le (Nat.le_of_lt_succ hi) with rfl | hlt
    · exact hlast
    · exact mt (opensAtDepth_next hd hlt).mp (hgreatest i hki hlt)

/-- An OPEN outside any loop is the match itself. -/
theorem isBackwardMatchAt_of_opens (hlast : OpensAtDepth entry (n + 1) d n) :
    IsBackwardMatchAt entry (n + 1) d k ↔ n = k := by
  constructor
  · rintro ⟨hk, -, hgreatest⟩
    exact ((Nat.eq_or_lt_of_le (Nat.le_of_lt_succ hk)).resolve_right fun hlt =>
      hgreatest n hlt (Nat.lt_succ_self n) hlast).symm
  · rintro rfl
    exact ⟨Nat.lt_succ_self _, hlast, fun i hni hi => absurd hni (Nat.not_lt.mpr (Nat.le_of_lt_succ hi))⟩

theorem scanBackward_eq_some_iff_at : scanBackward entry n d = some k ↔ IsBackwardMatchAt entry n d k := by
  induction n generalizing d with
  | zero => simp [scanBackward, IsBackwardMatchAt]
  | succ n ih =>
    cases hi : entry n with
    | loopClose =>
      simp only [scanBackward, hi, ih]
      exact (isBackwardMatchAt_next (by simp [opensAtDepth_last, hi]) (by simp [hi])).symm
    | loopOpen =>
      by_cases hd : d = 0
      · rw [isBackwardMatchAt_of_opens (opensAtDepth_last.mpr ⟨hi, hd⟩)]
        simp only [scanBackward, hi, hd, if_true, Option.some.injEq]
      · simp only [scanBackward, hi, hd, if_false, ih]
        exact (isBackwardMatchAt_next (by simp [opensAtDepth_last, hd]) (by simp [hi]; omega)).symm
    | _ =>
      simp only [scanBackward, hi, ih]
      exact (isBackwardMatchAt_next (by simp [opensAtDepth_last, hi]) (by simp [hi])).symm

/-- R77: the backward scan answers exactly `bwd(n)`. -/
theorem scanBackward_eq_some_iff : scanBackward entry n 0 = some k ↔ IsBackwardMatch entry n k :=
  scanBackward_eq_some_iff_at.trans isBackwardMatchAt_zero

/-- R77: the backward scan underflows exactly when `bwd(n)` is none. -/
theorem scanBackward_eq_none_iff : scanBackward entry n 0 = none ↔ ∀ k, ¬ IsBackwardMatch entry n k := by
  simp only [Option.eq_none_iff_forall_ne_some, ne_eq, scanBackward_eq_some_iff]

end Sys2Proof.Machine

/-! What a step leaves in `pc` and `status` (spec/10_state.md R19, R20). -/

namespace Sys2Proof.Machine

variable {i : Instr} {s t : State}

/-! ### The program counter -/

/-- OPEN on the way to a next state, the converse of `exec_loopOpen_of_lt`. -/
theorem exec_loopOpen_next (h : exec .loopOpen s = .next t) :
    t = if s.cell s.dp = 0#8 then jumpForward s else s := by
  have hcases : s.dp < s.tapeSize ∧ s.cell s.dp = 0#8 ∧ t = jumpForward s ∨
      s.dp < s.tapeSize ∧ s.cell s.dp ≠ 0#8 ∧ t = s := by simpa using exec_next_cases h
  rcases hcases with ⟨-, hcell, ht⟩ | ⟨-, hcell, ht⟩
  · rw [if_pos hcell, ht]
  · rw [if_neg hcell, ht]

/-- CLOSE on the way to a next state, the converse of `exec_loopClose_of_lt`. -/
theorem exec_loopClose_next (h : exec .loopClose s = .next t) :
    t = if s.cell s.dp = 0#8 then s else jumpBackward s := by
  have hcases : s.dp < s.tapeSize ∧ s.cell s.dp = 0#8 ∧ t = s ∨
      s.dp < s.tapeSize ∧ s.cell s.dp ≠ 0#8 ∧ t = jumpBackward s := by simpa using exec_next_cases h
  rcases hcases with ⟨-, hcell, ht⟩ | ⟨-, hcell, ht⟩
  · rw [if_pos hcell, ht]
  · rw [if_neg hcell, ht]

/-- Settles O18: the seven other variants leave the advanced `pc`, and a bracket leaves it or takes its jump, which ends
where R77's matching functions say. -/
theorem stepLeavesPcAsRuled : Obligations.StepLeavesPcAsRuled := by
  intro s t hrun hlt h
  have hexec : exec (s.entry s.pc) s.advance = .next t := (step_of_lt hrun hlt).symm.trans h
  have hopen (hi : s.entry s.pc = .loopOpen) : t = if s.cell s.dp = 0#8 then jumpForward s.advance else s.advance :=
    exec_loopOpen_next (s := s.advance) (hi ▸ hexec)
  have hclose (hi : s.entry s.pc = .loopClose) : t = if s.cell s.dp = 0#8 then s.advance else jumpBackward s.advance :=
    exec_loopClose_next (s := s.advance) (hi ▸ hexec)
  refine ⟨exec_pc_of_not_bracket hexec, fun hi hcell => ?_, fun hi hcell => ?_, fun j hi hcell hj => ?_,
    fun hi hcell hnone => ?_, fun k hi hcell hk => ?_, fun hi hcell hnone => ?_⟩
  · rw [hopen hi, if_neg hcell]
    rfl
  · rw [hclose hi, if_pos hcell]
    rfl
  · obtain ⟨hscan, -⟩ := (scanForward_eq_iff_isForwardMatch hlt).mpr hj
    obtain ⟨-, -, ⟨hjclose, -⟩, -⟩ := hj
    rw [hopen hi, if_pos hcell]
    exact ⟨hscan, hjclose⟩
  · rw [hopen hi, if_pos hcell]
    exact (scanForward_eq_length_iff hlt).mpr hnone
  · rw [hclose hi, if_neg hcell, jumpBackward_of_some (scanBackward_eq_some_iff.mpr hk)]
    obtain ⟨-, ⟨hkopen, -⟩, -⟩ := hk
    exact ⟨rfl, hkopen⟩
  · rw [hclose hi, if_neg hcell, jumpBackward_of_none (scanBackward_eq_none_iff.mpr hnone)]
    rfl

/-! ### The status -/

/-- Only the underflow of a CLOSE changes `status` (R86). -/
theorem exec_status_cases (h : exec i s = .next t) :
    t.status = s.status ∨
      (i = .loopClose ∧ s.cell s.dp ≠ 0#8 ∧ (∀ k, ¬ IsBackwardMatch s.entry (closeIndex s) k) ∧
        t = s.raiseUnmatchedClose (closeIndex s)) := by
  rcases exec_next_writes h with ⟨-, rfl⟩ | ⟨-, d, rfl⟩ | ⟨-, v, rfl⟩ | ⟨-, rfl⟩ | ⟨-, p, rfl⟩ |
    ⟨hi, hcell, hnone, ht⟩
  case inr.inr.inr.inr.inr => exact .inr ⟨hi, hcell, scanBackward_eq_none_iff.mp hnone, ht⟩
  all_goals exact .inl rfl

/-- R20: a step leaves `status`, halts at the program's end, or faults at a CLOSE without a match. -/
theorem step_status_cases (h : step s = .next t) :
    t.status = s.status ∨ (t.status = .halt ∧ s.progLen ≤ s.pc) ∨
      (t.status = .fault ∧ s.pc < s.progLen ∧ s.entry s.pc = .loopClose ∧ s.cell s.dp ≠ 0#8 ∧
        ∀ k, ¬ IsBackwardMatch s.entry s.pc k) := by
  obtain ⟨-, ⟨hend, rfl⟩ | ⟨hlt, hexec⟩⟩ := step_next_cases h
  · exact .inr (.inl ⟨rfl, hend⟩)
  · rcases exec_status_cases hexec with hsame | ⟨hclose, hcell, hnone, rfl⟩
    · exact .inl hsame
    · exact .inr (.inr ⟨rfl, hlt, hclose, hcell, hnone⟩)

/-- Settles O17: `status` is changed by a reset, by a start from IDLE, and by a step as `step_status_cases` says. -/
theorem statusChangesOnlyAsRuled : Obligations.StatusChangesOnlyAsRuled := by
  refine ⟨⟨rfl, rfl, rfl, rfl⟩, rfl, fun e s t h hne => ?_⟩
  rcases onEvent_next_cases h with rfl | ⟨n, he, -, rfl⟩ | ⟨addr, c, -, -, -, rfl⟩ | ⟨len, he, hidle, -, -, rfl⟩ |
    ⟨ready, he, hstep⟩
  · exact absurd rfl hne
  · exact .inl ⟨rfl, n, he⟩
  · exact absurd rfl hne
  · exact .inr (.inl ⟨hidle, rfl, len, he⟩)
  · have hrun := (step_next_cases hstep).1
    rcases step_status_cases hstep with hsame | ⟨hhalt, hend⟩ | ⟨hfault, hlt, hclose, hcell, hnone⟩
    · exact absurd hsame hne
    · exact .inr (.inr (.inl ⟨hrun, hhalt, hend, ready, he⟩))
    · exact .inr (.inr (.inr ⟨hrun, hfault, hlt, hclose, hcell, hnone, ready, he⟩))

end Sys2Proof.Machine

/-! The tape accesses, and the program entries a step reads (spec/20_memory.md R33, R34, R35, spec/70_reset_and_hazards.md
R99). -/

namespace Sys2Proof.Machine

variable {i : Instr} {s t : State}

/-! ### The tape -/

/-- The five instructions that access the tape begin with the read of the current cell (R72). -/
theorem exec_eq_withCurrentCell (s : State) (hi : i ∈ [.inc, .dec, .output, .loopOpen, .loopClose]) :
    ∃ k, exec i s = withCurrentCell s k := by
  simp only [List.mem_cons, List.not_mem_nil, or_false] at hi
  rcases hi with rfl | rfl | rfl | rfl | rfl
  · exact ⟨fun v => memWrite s (effectiveAddress s) (cellIncrement v), rfl⟩
  · exact ⟨fun v => memWrite s (effectiveAddress s) (cellDecrement v), rfl⟩
  · exact ⟨fun v => .next (s.emit v), rfl⟩
  · exact ⟨fun v => if cellIsZero v then .next (jumpForward s) else .next s, rfl⟩
  · exact ⟨fun v => if cellIsZero v then .next s else .next (jumpBackward s), rfl⟩

/-- Such an instruction completes only on a cell of the tape. -/
theorem exec_next_dp_lt (h : exec i s = .next t) (hi : i ∈ [.inc, .dec, .output, .loopOpen, .loopClose]) :
    s.dp < s.tapeSize := by
  obtain ⟨k, hk⟩ := exec_eq_withCurrentCell s hi
  exact (withCurrentCell_next (hk.symm.trans h)).1

/-- Settles O29: the read of the current cell stops there. -/
theorem cellOutsideTapeStops : Obligations.CellOutsideTapeStops := by
  intro i s hdp hi
  obtain ⟨k, hk⟩ := exec_eq_withCurrentCell s hi
  exact hk.trans (withCurrentCell_of_ge hdp)

/-- Settles O31: a write answers the written tape, and by the frame of the instructions only INC and DEC change it. -/
theorem memWriteSetsOneCell : Obligations.MemWriteSetsOneCell := by
  refine ⟨fun s a v ha => ?_, fun i s t h hchanged => ?_⟩
  · exact ⟨_, memWrite_of_lt ha, Memory.read_write_self s.tape a v, fun b hb => Memory.read_write_of_ne hb, rfl⟩
  · obtain ⟨-, -, htape, hcell, -⟩ := instructionsWriteOnlyTheirOwn i s t h
    exact ⟨by_contra fun hi => hchanged (htape (mt .inl hi) (mt .inr hi)), hcell⟩

/-! ### Another program store -/

/-- The forward scan reads only the entries from where it starts up to where it runs off. -/
theorem scanForward_congr {entry entry' : Nat → Instr} {left pc : Nat} (depth : Nat)
    (h : ∀ j, pc ≤ j → j < pc + left → entry' j = entry j) :
    scanForward entry' left pc depth = scanForward entry left pc depth := by
  induction left generalizing pc depth with
  | zero => rfl
  | succ left ih =>
    have hhere : entry' pc = entry pc := h pc (Nat.le_refl pc) (by omega)
    have hnext (d : Nat) : scanForward entry' left (pc + 1) d = scanForward entry left (pc + 1) d :=
      ih d fun j hj hlt => h j (by omega) (by omega)
    simp only [scanForward, hhere, hnext]

/-- The backward scan reads only the entries below where it starts. -/
theorem scanBackward_congr {entry entry' : Nat → Instr} {n : Nat} (depth : Nat)
    (h : ∀ j, j < n → entry' j = entry j) : scanBackward entry' n depth = scanBackward entry n depth := by
  induction n generalizing depth with
  | zero => rfl
  | succ n ih =>
    have hhere : entry' n = entry n := h n (Nat.lt_succ_self n)
    have hnext (d : Nat) : scanBackward entry' n d = scanBackward entry n d :=
      ih d fun j hj => h j (Nat.lt_succ_of_lt hj)
    simp only [scanBackward, hhere, hnext]

/-- The same state with another program store and other content where nothing is loaded. -/
def State.setProgram (s : State) (store : Store) (fill : Nat) : State := { s with store := store, storeFill := fill }

variable {store : Store} {fill : Nat}

theorem jumpForward_setProgram (hagree : ∀ j, j < s.progLen → (s.setProgram store fill).entry j = s.entry j) :
    jumpForward (s.setProgram store fill) = (jumpForward s).setProgram store fill := by
  have hscan : scanForward (s.setProgram store fill).entry (s.progLen - s.pc) s.pc 0 =
      scanForward s.entry (s.progLen - s.pc) s.pc 0 :=
    scanForward_congr 0 fun j _ _ => hagree j (by omega)
  exact congrArg (s.setProgram store fill).setPc hscan

theorem jumpBackward_setProgram (hpc : s.pc ≤ s.progLen)
    (hagree : ∀ j, j < s.progLen → (s.setProgram store fill).entry j = s.entry j) :
    jumpBackward (s.setProgram store fill) = (jumpBackward s).setProgram store fill := by
  have hscan : scanBackward (s.setProgram store fill).entry (closeIndex s) 0 = scanBackward s.entry (closeIndex s) 0 :=
    scanBackward_congr 0 fun j hj => hagree j (by unfold closeIndex at hj; omega)
  cases hmatch : scanBackward s.entry (closeIndex s) 0 with
  | none =>
    rw [jumpBackward_of_none hmatch]
    exact jumpBackward_of_none (hscan.trans hmatch)
  | some k =>
    rw [jumpBackward_of_some hmatch]
    exact jumpBackward_of_some (hscan.trans hmatch)

/-- An instruction carries along any program store that agrees below `L`: only the two jumps read it at all. -/
theorem exec_setProgram (h : exec i s = .next t) (hpc : s.pc ≤ s.progLen)
    (hagree : ∀ j, j < s.progLen → (s.setProgram store fill).entry j = s.entry j) :
    exec i (s.setProgram store fill) = .next (t.setProgram store fill) := by
  cases i with
  | movr | movl | input | nop =>
    obtain rfl := Host.Outcome.next.inj h
    rfl
  | inc | dec =>
    obtain ⟨hdp, rfl⟩ := updateCurrentCell_next h
    exact updateCurrentCell_of_lt (s := s.setProgram store fill) hdp
  | output =>
    obtain ⟨hdp, rfl⟩ : s.dp < s.tapeSize ∧ t = s.emit (s.cell s.dp) := by simpa using exec_next_cases h
    exact exec_output_of_lt (s := s.setProgram store fill) hdp
  | loopOpen =>
    have hdp := exec_next_dp_lt h (by decide)
    rw [exec_loopOpen_of_lt (s := s.setProgram store fill) hdp, jumpForward_setProgram hagree, exec_loopOpen_next h]
    exact congrArg _ (apply_ite (State.setProgram · store fill) ..).symm
  | loopClose =>
    have hdp := exec_next_dp_lt h (by decide)
    rw [exec_loopClose_of_lt (s := s.setProgram store fill) hdp, jumpBackward_setProgram hpc hagree,
      exec_loopClose_next h]
    exact congrArg _ (apply_ite (State.setProgram · store fill) ..).symm

theorem step_setProgram (h : step s = .next t)
    (hagree : ∀ j, j < s.progLen → (s.setProgram store fill).entry j = s.entry j) :
    step (s.setProgram store fill) = .next (t.setProgram store fill) := by
  obtain ⟨hrun, ⟨hend, rfl⟩ | ⟨hlt, hexec⟩⟩ := step_next_cases h
  · exact step_of_end (s := s.setProgram store fill) hrun hend
  · have hfetch : step (s.setProgram store fill) = exec (s.entry s.pc) (s.advance.setProgram store fill) :=
      hagree s.pc hlt ▸ step_of_lt (s := s.setProgram store fill) hrun hlt
    exact hfetch.trans (exec_setProgram hexec hlt hagree)

/-- Settles O35: the fetch reads an entry below `L`, and the scans read no other. -/
theorem onlyEntriesBelowLengthAreRead : Obligations.OnlyEntriesBelowLengthAreRead :=
  fun _ _ _ _ hagree h => step_setProgram h hagree

end Sys2Proof.Machine

/-! The decoder, the encoder and the internal codes (spec/30_encoding.md R47, R50, R51). -/

namespace Sys2Proof

variable {c : CodePoint} {code : InternalCode} {i : Instr}

/-- The encoding facts proved per constructor, as one lemma over the instruction. -/
theorem Laws.Encoding.statement (i : Instr) : Statement i := by
  cases i with
  | movr => exact movr
  | movl => exact movl
  | inc => exact inc
  | dec => exact dec
  | output => exact output
  | input => exact input
  | loopOpen => exact loopOpen
  | loopClose => exact loopClose
  | nop => exact nop

/-! ### Characters -/

/-- The eight variants that have a character of their own, in the order of R50's rows. -/
def opcodes : List Instr :=
  [.movr, .movl, .inc, .dec, .output, .input, .loopOpen, .loopClose]

theorem mem_opcodes : i ∈ opcodes ↔ i ≠ .nop := by
  cases i with
  | _ => decide

@[simp] theorem decode_encode (i : Instr) : decode (encode i) = i :=
  have ⟨_, hdecode, _, _⟩ := Laws.Encoding.statement i
  hdecode

/-- Each branch of the decoder but the last answers the instruction whose character it tests for. -/
theorem decode_eq_nop_or_encode_decode (c : CodePoint) : decode c = .nop ∨ encode (decode c) = c := by
  fun_cases decode c
  case case9 => exact .inl rfl
  all_goals exact .inr (Eq.symm ‹_›)

theorem encode_decode (h : decode c ≠ .nop) : encode (decode c) = c :=
  (decode_eq_nop_or_encode_decode c).resolve_left h

/-- A row of R50. -/
theorem decode_eq_iff (hi : i ≠ .nop) : decode c = i ↔ c = encode i where
  mp h := by
    subst h
    exact (encode_decode hi).symm
  mpr h := h ▸ decode_encode i

/-- The last line of R50: any other character is NOP. -/
theorem decode_eq_nop_iff : decode c = .nop ↔ c ∉ opcodes.map encode where
  mp hnop hmem := by
    obtain ⟨i, hi, rfl⟩ := List.mem_map.mp hmem
    exact mem_opcodes.mp hi ((decode_encode i).symm.trans hnop)
  mpr hmem := by
    by_contra hnop
    exact hmem (List.mem_map.mpr ⟨decode c, mem_opcodes.mpr hnop, encode_decode hnop⟩)

/-- Settles O1: the eight rows of R50, then its last line. -/
theorem decoderIsTheOpcodeMap : Obligations.DecoderIsTheOpcodeMap := fun _ =>
  ⟨decode_eq_iff (by decide), decode_eq_iff (by decide), decode_eq_iff (by decide), decode_eq_iff (by decide),
    decode_eq_iff (by decide), decode_eq_iff (by decide), decode_eq_iff (by decide), decode_eq_iff (by decide),
    decode_eq_nop_iff⟩

/-- A table word at least as wide as a character reads back every character. -/
theorem decodeTableWord_toNat {nbits : Nat} (hn : 21 ≤ nbits) (c : CodePoint) :
    decodeTableWord nbits c.toNat = some (decode c) := by
  have hmod : c.toNat % 2 ^ nbits = c.toNat :=
    Nat.mod_eq_of_lt (c.isLt.trans_le (Nat.pow_le_pow_right (by decide) hn))
  simp [decodeTableWord, hmod, c.isLt]

/-- Settles O2: the words are fixed, so the decoder is run on each. -/
theorem decodeSanityWords : Obligations.DecodeSanityWords := by
  unfold Obligations.DecodeSanityWords
  decide

/-- Settles O3: the two directions of the encoding, and a character's table word is the character. -/
theorem encodeAndDecodeAgree : Obligations.EncodeAndDecodeAgree where
  left i _ := ⟨decode_encode i, by rw [decodeTableWord_toNat le_rfl, decode_encode]⟩
  right _ := encode_decode

/-! ### Internal codes -/

@[simp] theorem instrOfCode_code (i : Instr) : instrOfCode i.code = some i :=
  have ⟨_, _, hcode, _⟩ := Laws.Encoding.statement i
  hcode

theorem Instr.code_toNat_le (i : Instr) : i.code.toNat ≤ 8 :=
  have ⟨_, _, _, hlegal⟩ := Laws.Encoding.statement i
  of_decide_eq_true hlegal

/-- Only a variant's own code stands for it. -/
theorem code_of_instrOfCode (h : instrOfCode code = some i) : i.code = code := by
  revert h
  fun_cases instrOfCode code
  case case10 => exact nofun
  all_goals
    rintro ⟨⟩
    exact Eq.symm ‹_›

/-- The codes no variant has, `0x9 .. 0xF`, stand for nothing. -/
theorem instrOfCode_eq_none (h : 9 ≤ code.toNat) : instrOfCode code = none := by
  refine Option.eq_none_iff_forall_ne_some.mpr fun i hi => ?_
  have hle := i.code_toNat_le
  rw [code_of_instrOfCode hi] at hle
  omega

/-- Settles O4: R51's table as the model has it, and its two directions. -/
theorem internalCodesAreTheTable : Obligations.InternalCodesAreTheTable :=
  ⟨by decide, fun c => (decode c).code_toNat_le, instrOfCode_code, fun _ => instrOfCode_eq_none⟩

end Sys2Proof

/-! The execution of a comment character (spec/30_encoding.md R52, spec/40_fetch_execute.md R65). -/

namespace Sys2Proof.Machine

@[simp] theorem exec_nop (s : State) : exec .nop s = .next s := rfl

/-- Settles O5: the character was loaded as a NOP, and the fetch alone advances `pc`. -/
theorem commentCharacterOnlyAdvances : Obligations.CommentCharacterOnlyAdvances := by
  intro c s hc hrun hlt hread
  have hnop : s.entry s.pc = .nop := (State.entry_of_read hread).trans (decode_eq_nop_iff.mpr hc)
  calc step s
    _ = exec (s.entry s.pc) s.advance := step_of_lt hrun hlt
    _ = .next s.advance := by rw [hnop, exec_nop]
    _ = .next { s with pc := s.pc + 1 } := rfl

end Sys2Proof.Machine

/-! The fetch-execute step: it completes, it runs the instruction at `pc`, it is enabled in RUN only, and a run need not
end (spec/40_fetch_execute.md R57 to R59, R62 to R65). -/

namespace Sys2Proof.Machine

variable {s t : State} {o p : Nat}

/-! ### Completion -/

/-- R59, R86: on a cell of the tape every instruction has a next state; the four that read no cell do not use `hdp`. -/
theorem exec_completes (i : Instr) (hdp : s.dp < s.tapeSize) : ∃ t, exec i s = .next t := by
  cases i with
  | movr => exact ⟨_, rfl⟩
  | movl => exact ⟨_, rfl⟩
  | inc => exact ⟨_, updateCurrentCell_of_lt hdp⟩
  | dec => exact ⟨_, updateCurrentCell_of_lt hdp⟩
  | output => exact ⟨_, exec_output_of_lt hdp⟩
  | input => exact ⟨_, rfl⟩
  | loopOpen => exact ⟨_, exec_loopOpen_of_lt hdp⟩
  | loopClose => exact ⟨_, exec_loopClose_of_lt hdp⟩
  | nop => exact ⟨_, rfl⟩

/-- Settles O28: `exec_completes`, and MOVR, MOVL, IN and NOP answer a next state by definition. -/
theorem everyInstructionCompletes : Obligations.EveryInstructionCompletes :=
  ⟨fun i _ => exec_completes i, fun _ => ⟨⟨_, rfl⟩, ⟨_, rfl⟩, ⟨_, rfl⟩, ⟨_, rfl⟩⟩⟩

/-- A running core whose data pointer is on the tape has a next step. -/
theorem step_completes (hrun : s.status = .run) (hdp : s.dp < s.tapeSize) : ∃ t, step s = .next t := by
  rcases Nat.lt_or_ge s.pc s.progLen with hlt | hend
  · rw [step_of_lt hrun hlt]
    exact exec_completes _ hdp
  · exact ⟨_, step_of_end hrun hend⟩

/-- Settles O56: the invariant has `dp` on the tape, so the step completes, and only HALT or FAULT ends the run. -/
theorem reachableRunNeverSticks : Obligations.ReachableRunNeverSticks := by
  intro s hs hrun
  obtain ⟨t, ht⟩ := step_completes hrun hs.stateInv.dp_lt
  refine ⟨t, ht, ?_⟩
  rcases step_status_cases ht with hsame | ⟨hhalt, -⟩ | ⟨hfault, -⟩
  · exact .inl (hsame.trans hrun)
  · exact .inr (.inl hhalt)
  · exact .inr (.inr hfault)

/-! ### The step in RUN -/

/-- Settles O14: the effect of the halting step is the one write to `status`. -/
theorem stepHaltsAtProgramEnd : Obligations.StepHaltsAtProgramEnd :=
  fun _ => step_of_end

/-- Settles O15: the two branches of the step in RUN; a loaded entry is what the program holds at `pc`. -/
theorem stepRunsDecodedInstruction : Obligations.StepRunsDecodedInstruction := by
  intro s hrun
  refine ⟨step_of_lt hrun, fun c hlt hread => ?_, step_of_end hrun⟩
  rw [← State.entry_of_read hread]
  exact step_of_lt hrun hlt

/-- Settles O25: the decoder's last line, and a NOP at the last index advances to `L`, where the step halts. -/
theorem unknownDoesNothing : Obligations.UnknownDoesNothing := by
  refine ⟨fun c => decode_eq_nop_iff.mpr, rfl, exec_nop, fun s hrun hlast hnop => ⟨?_, ?_⟩⟩
  · rw [step_of_lt hrun (by omega), hnop, exec_nop, State.advance, hlast]
    rfl
  · exact step_of_end (s := s.setPc s.progLen) hrun le_rfl

/-! ### Outside RUN -/

/-- R62: a step with a next state starts in RUN. -/
theorem step_next_run (h : step s = .next t) : s.status = .run :=
  (step_next_cases h).1

theorem State.ended.ne_idle (h : s.ended) : s.status ≠ .idle := by
  rcases h with h | h <;> simp [h]

theorem State.ended.ne_run (h : s.ended) : s.status ≠ .run := by
  rcases h with h | h <;> simp [h]

/-- After the end of a run every event but reset leaves the state as it is. -/
theorem onEvent_of_ended {e : PortEvent} (hended : s.ended) (hreset : ∀ n, e ≠ .reset n) (h : onEvent e s = .next t) :
    t = s := by
  rcases onEvent_next_cases h with ht | ⟨n, he, -⟩ | ⟨-, -, -, hidle, -⟩ | ⟨-, -, hidle, -⟩ | ⟨-, -, hstep⟩
  · exact ht
  · exact absurd he (hreset n)
  · exact absurd hidle hended.ne_idle
  · exact absurd hidle hended.ne_idle
  · exact absurd (step_next_run hstep) hended.ne_run

/-- R20's list of the changes of `status`, read from IDLE: only a start leaves it. -/
theorem exists_start_of_leaves_idle {e : PortEvent} (hidle : s.status = .idle) (h : onEvent e s = .next t)
    (hleaves : t.status ≠ .idle) : ∃ len, e = .start len := by
  obtain ⟨-, -, hchanges⟩ := statusChangesOnlyAsRuled
  rcases hchanges e s t h (by rwa [hidle]) with ⟨ht, -⟩ | ⟨-, -, hstart⟩ | ⟨hrun, -⟩ | ⟨hrun, -⟩
  · exact absurd ht hleaves
  · exact hstart
  · exact nomatch hidle.symm.trans hrun
  · exact nomatch hidle.symm.trans hrun

/-- Settles O16: steps start in RUN, and neither a load nor a start does anything outside IDLE. -/
theorem noStepOutsideRun : Obligations.NoStepOutsideRun :=
  ⟨fun _ _ hstatus hstep => hstatus (step_next_run hstep), fun _ _ _ => exists_start_of_leaves_idle,
    fun _ _ _ => onEvent_of_ended, fun _ _ hended => congrArg Host.Outcome.next (startRun_of_not_idle hended.ne_idle)⟩

/-! ### A run that does not end -/

/-- The core runs in an empty loop: at its OPEN at `o` or at its CLOSE right behind, on a non-zero cell (R64). -/
structure InEmptyLoop (o : Nat) (s : State) : Prop where
  running : s.status = .run
  close_lt : o + 1 < s.progLen
  opens : s.entry o = .loopOpen
  closes : s.entry (o + 1) = .loopClose
  dp_lt : s.dp < s.tapeSize
  cell_ne : s.cell s.dp ≠ 0#8
  pc_eq : s.pc = o ∨ s.pc = o + 1

theorem InEmptyLoop.setPc (h : InEmptyLoop o s) (hp : p = o ∨ p = o + 1) : InEmptyLoop o (s.setPc p) :=
  { h with pc_eq := hp }

/-- At the OPEN a step enters the empty body, which is the CLOSE. -/
theorem InEmptyLoop.step_open (h : InEmptyLoop o s) (hpc : s.pc = o) : step s = .next (s.setPc (o + 1)) := by
  have hlt := h.close_lt
  calc step s
    _ = exec .loopOpen s.advance := by rw [step_of_lt h.running (by omega), hpc, h.opens]
    _ = .next s.advance := (exec_loopOpen_of_lt (s := s.advance) h.dp_lt).trans (congrArg _ (if_neg h.cell_ne))
    _ = .next (s.setPc (o + 1)) := by rw [State.advance, hpc]

/-- At the CLOSE a step goes back to the OPEN, the first index its scan visits. -/
theorem InEmptyLoop.step_close (h : InEmptyLoop o s) (hpc : s.pc = o + 1) : step s = .next (s.setPc o) := by
  have hlt := h.close_lt
  have hscan : scanBackward s.entry (closeIndex s.advance) 0 = some o := by
    simp [closeIndex, State.advance, hpc, scanBackward, h.opens]
  calc step s
    _ = exec .loopClose s.advance := by rw [step_of_lt h.running (by omega), hpc, h.closes]
    _ = .next (jumpBackward s.advance) :=
      (exec_loopClose_of_lt (s := s.advance) h.dp_lt).trans (congrArg _ (if_neg h.cell_ne))
    _ = .next (s.setPc o) := congrArg _ (jumpBackward_of_some (s := s.advance) hscan)

/-- So a step moves `pc` to the other of the two brackets and does nothing else. -/
theorem InEmptyLoop.step (h : InEmptyLoop o s) :
    ∃ p, (p = o ∨ p = o + 1) ∧ Machine.step s = .next (s.setPc p) := by
  rcases h.pc_eq with hpc | hpc
  · exact ⟨o + 1, .inr rfl, h.step_open hpc⟩
  · exact ⟨o, .inl rfl, h.step_close hpc⟩

/-- A run whose first step is known goes on from there. -/
theorem run_succ_of_next (h : step s = .next t) (k : Nat) :
    Host.Core.run core (k + 1) s = Host.Core.run core k t := by
  have hcore : core.step s = .next t := h
  simp only [Host.Core.run, hcore]

/-- Any number of steps in an empty loop changes at most `pc`. -/
theorem InEmptyLoop.run (h : InEmptyLoop o s) (k : Nat) : ∃ p, Host.Core.run core k s = .next (s.setPc p) := by
  induction k generalizing s with
  | zero => exact ⟨s.pc, rfl⟩
  | succ k ih =>
    obtain ⟨q, hq, hstep⟩ := h.step
    obtain ⟨p, hp⟩ := ih (h.setPc hq)
    exact ⟨p, (run_succ_of_next hstep k).trans hp⟩

/-- Settles O43: the core starts at the OPEN of an empty loop, so only `pc` ever moves. -/
theorem emptyLoopNeverEnds : Obligations.EmptyLoopNeverEnds := by
  intro s hrun hlt hopen hclose hdp hcell k
  have hloop : InEmptyLoop s.pc s := ⟨hrun, hlt, hopen, hclose, hdp, hcell, .inl rfl⟩
  obtain ⟨p, hp⟩ := hloop.run k
  exact ⟨s.setPc p, hp, hrun, rfl, rfl, rfl⟩

end Sys2Proof.Machine

/-! The pointer and the current cell: MOVR, MOVL, INC and DEC (spec/41_tape_pointer.md R66 to R72). -/

namespace Sys2Proof.Machine

variable {i : Instr} {s : State} {n d : Nat} {f g : Byte → Byte}

/-! ### INC and DEC -/

theorem exec_inc (s : State) : exec .inc s = updateCurrentCell cellIncrement s := rfl

theorem exec_dec (s : State) : exec .dec s = updateCurrentCell cellDecrement s := rfl

/-- The read-modify-write of the current cell, with its frame. -/
theorem updateCurrentCell_spec (f : Byte → Byte) (hdp : s.dp < s.tapeSize) :
    ∃ t, updateCurrentCell f s = .next t ∧ t.cell (effectiveAddress s) = f (s.cell s.dp) ∧
      (∀ a, a ≠ effectiveAddress s → t.cell a = s.cell a) ∧ t = { s with tape := t.tape } :=
  ⟨_, updateCurrentCell_of_lt hdp, Memory.read_write_self s.tape s.dp _, fun _ => Memory.read_write_of_ne, rfl⟩

/-- Settles O21: INC is the read-modify-write with `cellIncrement`. -/
theorem incrementCurrentCell : Obligations.IncrementCurrentCell := by
  refine ⟨decode_encode .inc, rfl, fun s hdp => ?_⟩
  obtain ⟨t, ht, hcell, hframe, hrest⟩ := updateCurrentCell_spec cellIncrement hdp
  exact ⟨t, (exec_inc s).trans ht, by rw [hcell, cellIncrement_toNat], hframe, hrest⟩

/-- Settles O22: DEC is the read-modify-write with `cellDecrement`. -/
theorem decrementCurrentCell : Obligations.DecrementCurrentCell := by
  refine ⟨decode_encode .dec, rfl, fun s hdp => ?_⟩
  obtain ⟨t, ht, hcell, hframe, hrest⟩ := updateCurrentCell_spec cellDecrement hdp
  exact ⟨t, (exec_dec s).trans ht, by rw [hcell, cellDecrement_toNat], hframe, hrest⟩

theorem cellDecrement_cellIncrement : Function.LeftInverse cellDecrement cellIncrement := fun v => by
  apply BitVec.eq_of_toNat_eq
  rw [cellDecrement_toNat, cellIncrement_toNat]
  omega

theorem cellIncrement_cellDecrement : Function.LeftInverse cellIncrement cellDecrement := fun v => by
  apply BitVec.eq_of_toNat_eq
  rw [cellIncrement_toNat, cellDecrement_toNat]
  omega

/-- A cell written and then written back leaves the same tape as data, because the form is canonical. -/
theorem Memory.write_write_read {m : Memory} (h : m.wf) (a : Nat) (v : Byte) :
    (m.write a v).write a (m.read a) = m := by
  refine Memory.ext_of_wf (Memory.wf_write (Memory.wf_write h)) h fun b => ?_
  by_cases hb : b = a
  · rw [hb, Memory.read_write_self]
  · rw [Memory.read_write_of_ne hb, Memory.read_write_of_ne hb]

/-- Two read-modify-writes undo each other where their functions do. -/
theorem updateCurrentCell_undo (hgf : Function.LeftInverse g f) (hdp : s.dp < s.tapeSize) (hwf : s.tape.wf) :
    ∃ t, updateCurrentCell f s = .next t ∧ updateCurrentCell g t = .next s := by
  refine ⟨_, updateCurrentCell_of_lt hdp, .trans (updateCurrentCell_of_lt hdp) ?_⟩
  rw [State.setTape_dp, State.setTape_cell, State.setTape_tape, Memory.read_write_self, hgf, State.cell,
    Memory.write_write_read hwf]
  rfl

/-- Settles O37: `cellIncrement` and `cellDecrement` are inverse, so the read-modify-writes are. -/
theorem incrementAndDecrementAreInverse : Obligations.IncrementAndDecrementAreInverse := by
  intro s hdp hwf
  simp only [exec_inc, exec_dec]
  exact ⟨updateCurrentCell_undo cellDecrement_cellIncrement hdp hwf,
    updateCurrentCell_undo cellIncrement_cellDecrement hdp hwf⟩

/-! ### MOVR and MOVL -/

@[simp] theorem exec_movr (s : State) : exec .movr s = .next (s.setDp (pointerRight s.tapeSize s.dp)) := rfl

@[simp] theorem exec_movl (s : State) : exec .movl s = .next (s.setDp (pointerLeft s.tapeSize s.dp)) := rfl

/-- Settles O19: `pointerRight` is R68's wrap as it stands. -/
theorem moveRightWrapsAtTapeEnd : Obligations.MoveRightWrapsAtTapeEnd :=
  ⟨decode_encode .movr, rfl, exec_movr⟩

/-- Settles O20: `pointerLeft` is R69's wrap as it stands. -/
theorem moveLeftWrapsAtZero : Obligations.MoveLeftWrapsAtZero :=
  ⟨decode_encode .movl, rfl, exec_movl⟩

/-- On the tape, R68's wrap is R66's addition modulo `N`. -/
theorem pointerRight_eq_mod (h : d < n) : pointerRight n d = (d + 1) % n := by
  unfold pointerRight
  split
  · rename_i hend
    rw [hend, Nat.mod_self]
  · rw [Nat.mod_eq_of_lt (by omega)]

/-- On the tape, R69's wrap is R66's addition of `N - 1` modulo `N`. -/
theorem pointerLeft_eq_mod (h : d < n) : pointerLeft n d = (d + (n - 1)) % n := by
  unfold pointerLeft
  split
  · rename_i hzero
    rw [hzero, Nat.zero_add, Nat.mod_eq_of_lt (by omega)]
  · have hsum : d + (n - 1) = d - 1 + n := by omega
    rw [hsum, Nat.add_mod_right, Nat.mod_eq_of_lt (by omega)]

/-- An instruction that only moves the pointer, executed `k` times, moves it `k` times. -/
theorem repeatExec_of_setDp {move : Nat → Nat → Nat}
    (hmove : ∀ s, exec i s = .next (s.setDp (move s.tapeSize s.dp))) (k : Nat) (s : State) :
    repeatExec i k s = .next (s.setDp ((move s.tapeSize)^[k] s.dp)) := by
  induction k generalizing s with
  | zero => rfl
  | succ k ih =>
    rw [repeatExec, hmove]
    exact ih (s.setDp (move s.tapeSize s.dp))

/-- `k` moves by `m` modulo `n` are one move by `m * k`. -/
theorem iterate_eq_add_mul_mod {move : Nat → Nat} {m : Nat} (hmove : ∀ d, d < n → move d = (d + m) % n)
    (hd : d < n) (k : Nat) : move^[k] d = (d + m * k) % n := by
  induction k with
  | zero => exact (Nat.mod_eq_of_lt hd).symm
  | succ k ih =>
    calc move^[k + 1] d
      _ = move ((d + m * k) % n) := by rw [Function.iterate_succ_apply', ih]
      _ = ((d + m * k) % n + m) % n := hmove _ (Nat.mod_lt _ (by omega))
      _ = (d + m * (k + 1)) % n := by rw [Nat.mod_add_mod, Nat.add_assoc, Nat.mul_succ]

/-- `N` moves by any fixed number of cells modulo `N` go round the tape and leave the whole state as it was. -/
theorem repeatExec_tapeSize {move : Nat → Nat → Nat} {m : Nat}
    (hexec : ∀ s, exec i s = .next (s.setDp (move s.tapeSize s.dp)))
    (hmove : ∀ d, d < s.tapeSize → move s.tapeSize d = (d + m) % s.tapeSize) (hdp : s.dp < s.tapeSize) :
    repeatExec i s.tapeSize s = .next s := by
  have hround : (move s.tapeSize)^[s.tapeSize] s.dp = s.dp := by
    rw [iterate_eq_add_mul_mod hmove hdp, Nat.add_mul_mod_self_right, Nat.mod_eq_of_lt hdp]
  rw [repeatExec_of_setDp hexec, hround]
  rfl

/-- Settles O36: each move is an addition modulo `N`, by 1 to the right and by `N - 1` to the left. -/
theorem pointerIsCircular : Obligations.PointerIsCircular := by
  intro s hdp
  refine ⟨?_, ?_, repeatExec_tapeSize exec_movr (fun _ => pointerRight_eq_mod) hdp,
    repeatExec_tapeSize exec_movl (fun _ => pointerLeft_eq_mod) hdp⟩
  · rw [exec_movr, pointerRight_eq_mod hdp]
    rfl
  · rw [exec_movl, pointerLeft_eq_mod hdp, ← Nat.add_sub_assoc (by omega)]
    rfl

end Sys2Proof.Machine

/-! Output and input: OUT, its event at the port, and IN (spec/42_io.md R73, R74). -/

namespace Sys2Proof.Machine

variable {s : State} {entry : Nat → Instr} {v : Byte} {left pc depth : Nat}

/-! ### OUT and the port -/

/-- The port offers the current cell at an OUT in RUN below `L`. -/
theorem State.outOffer_of_output (hrun : s.status = .run) (hlt : s.pc < s.progLen) (hout : s.entry s.pc = .output) :
    s.outOffer = some (s.cell s.dp) :=
  if_pos ⟨hrun, hlt, hout⟩

/-- While an event is offered and `out_ready` is low, the turn leaves the state. -/
theorem onEvent_turn_of_wait (hoffer : s.outOffer = some v) : onEvent (.turn false) s = .next s :=
  if_pos ⟨rfl, Option.isSome_of_mem hoffer⟩

/-- With `out_ready` high the turn is the step, offered event or not. -/
@[simp] theorem onEvent_turn_ready (s : State) : onEvent (.turn true) s = step s := by
  simp [onEvent, turnCore]

/-- Settles O23: the read of the current cell is appended; the port offers that cell and waits for `out_ready`. -/
theorem outputEmitsCurrentCell : Obligations.OutputEmitsCurrentCell := by
  refine ⟨decode_encode .output, rfl, fun s => exec_output_of_lt, fun s hrun hlt hout hdp => ?_⟩
  have hoffer := State.outOffer_of_output hrun hlt hout
  refine ⟨hoffer, onEvent_turn_of_wait hoffer, ?_⟩
  calc onEvent (.turn true) s
    _ = exec (s.entry s.pc) s.advance := (onEvent_turn_ready s).trans (step_of_lt hrun hlt)
    _ = .next (s.advance.emit (s.cell s.dp)) := by rw [hout]; exact exec_output_of_lt (s := s.advance) hdp
    _ = .next { s with pc := s.pc + 1, out := s.out ++ [s.cell s.dp] } := rfl

/-! ### IN and the scans -/

@[simp] theorem exec_input (s : State) : exec .input s = .next s := rfl

/-- The forward scan passes over every instruction but a bracket. -/
theorem scanForward_of_not_bracket (h : ¬ isBracket (entry pc)) :
    scanForward entry (left + 1) pc depth = scanForward entry left (pc + 1) depth := by
  cases hi : entry pc with
  | loopOpen => exact absurd (.inl hi) h
  | loopClose => exact absurd (.inr hi) h
  | _ => simp only [scanForward, hi]

/-- The backward scan passes over every instruction but a bracket. -/
theorem scanBackward_of_not_bracket (h : ¬ isBracket (entry pc)) :
    scanBackward entry (pc + 1) depth = scanBackward entry pc depth := by
  cases hi : entry pc with
  | loopOpen => exact absurd (.inl hi) h
  | loopClose => exact absurd (.inr hi) h
  | _ => simp only [scanBackward, hi]

/-- Settles O24: IN is the identity, and neither IN nor NOP is a bracket, so both scans pass over them. -/
theorem inputDoesNothing : Obligations.InputDoesNothing := by
  refine ⟨decode_encode .input, rfl, exec_input, fun entry left pc depth hskip => ?_⟩
  have hbracket : ¬ isBracket (entry pc) := by
    rcases hskip with h | h <;> simp [isBracket, h]
  exact ⟨scanForward_of_not_bracket hbracket, scanBackward_of_not_bracket hbracket⟩

end Sys2Proof.Machine

/-! OPEN and CLOSE in terms of the matching functions, the symmetry of matching, and the runs of whole loops
(spec/43_loops.md R77 to R84). -/

namespace Sys2Proof.Machine

variable {i : Instr} {entry : Nat → Instr} {x : Instr} {a b c j k n o L : Nat} {s t u v : State}

/-! ### The scans and the jumps -/

/-- Settles O38: the two scans, started with no inner loop open, answer the matching functions. -/
theorem scansComputeTheMatchingFunctions : Obligations.ScansComputeTheMatchingFunctions :=
  ⟨fun _ _ _ hs => ⟨fun _ hj => (and_iff_left hj).symm.trans (scanForward_eq_iff_isForwardMatch hs),
      scanForward_eq_length_iff hs⟩,
    fun _ _ => ⟨fun _ => scanBackward_eq_some_iff, scanBackward_eq_none_iff⟩⟩

theorem jumpForward_of_match (hle : s.pc ≤ s.progLen) (hj : IsForwardMatch s.entry s.progLen s.pc j) :
    jumpForward s = s.setPc j :=
  have ⟨hscan, _⟩ := (scanForward_eq_iff_isForwardMatch hle).mpr hj
  congrArg s.setPc hscan

theorem jumpForward_of_no_match (hle : s.pc ≤ s.progLen) (hnone : ∀ j, ¬ IsForwardMatch s.entry s.progLen s.pc j) :
    jumpForward s = s.setPc s.progLen :=
  congrArg s.setPc ((scanForward_eq_length_iff hle).mpr hnone)

theorem jumpBackward_of_match (hk : IsBackwardMatch s.entry (closeIndex s) k) : jumpBackward s = s.setPc k :=
  jumpBackward_of_some (scanBackward_eq_some_iff.mpr hk)

theorem jumpBackward_of_no_match (hnone : ∀ k, ¬ IsBackwardMatch s.entry (closeIndex s) k) :
    jumpBackward s = s.raiseUnmatchedClose (closeIndex s) :=
  jumpBackward_of_none (scanBackward_eq_none_iff.mpr hnone)

/-! ### OPEN and CLOSE by the current cell -/

theorem exec_loopOpen_of_zero (hdp : s.dp < s.tapeSize) (hcell : s.cell s.dp = 0#8) :
    exec .loopOpen s = .next (jumpForward s) :=
  (exec_loopOpen_of_lt hdp).trans (congrArg _ (if_pos hcell))

theorem exec_loopOpen_of_ne_zero (hdp : s.dp < s.tapeSize) (hcell : s.cell s.dp ≠ 0#8) :
    exec .loopOpen s = .next s :=
  (exec_loopOpen_of_lt hdp).trans (congrArg _ (if_neg hcell))

theorem exec_loopClose_of_zero (hdp : s.dp < s.tapeSize) (hcell : s.cell s.dp = 0#8) :
    exec .loopClose s = .next s :=
  (exec_loopClose_of_lt hdp).trans (congrArg _ (if_pos hcell))

theorem exec_loopClose_of_ne_zero (hdp : s.dp < s.tapeSize) (hcell : s.cell s.dp ≠ 0#8) :
    exec .loopClose s = .next (jumpBackward s) :=
  (exec_loopClose_of_lt hdp).trans (congrArg _ (if_neg hcell))

/-- Settles O26: a zero cell makes OPEN jump, and the jump goes to the forward match or to `L`. -/
theorem openJumpsToForwardMatch : Obligations.OpenJumpsToForwardMatch := by
  refine ⟨decode_encode .loopOpen, rfl, fun s => exec_loopOpen_of_ne_zero, fun s hdp hcell hle => ?_⟩
  have hjump := exec_loopOpen_of_zero hdp hcell
  exact ⟨fun j hj => hjump.trans (congrArg _ (jumpForward_of_match hle hj)),
    fun hnone => hjump.trans (congrArg _ (jumpForward_of_no_match hle hnone))⟩

/-- Settles O27: a non-zero cell makes CLOSE jump, and the jump goes to the backward match or raises. -/
theorem closeJumpsToBackwardMatch : Obligations.CloseJumpsToBackwardMatch := by
  refine ⟨decode_encode .loopClose, rfl, fun s => exec_loopClose_of_zero, fun s c hpc hdp hcell => ?_⟩
  have hjump := exec_loopClose_of_ne_zero hdp hcell
  obtain rfl : closeIndex s = c := by simp [closeIndex, hpc]
  exact ⟨fun k hk => hjump.trans (congrArg _ (jumpBackward_of_match hk)),
    fun hnone => hjump.trans (congrArg _ (jumpBackward_of_no_match hnone))⟩

/-! ### The symmetry of matching -/

theorem countIn_append (hab : a ≤ b) (hbc : b ≤ c) :
    countIn entry x a c = countIn entry x a b + countIn entry x b c := by
  induction c, hbc using Nat.le_induction with
  | base => simp
  | succ c hbc ih => rw [countIn_succ (hab.trans hbc), countIn_succ hbc, ih, Nat.add_assoc]

/-- A range counted as what stands before an index, the entry there, and what stands after it. -/
theorem countIn_split (hab : a ≤ b) (hbc : b < c) :
    countIn entry x a c = countIn entry x a b + ((if entry b = x then 1 else 0) + countIn entry x (b + 1) c) := by
  rw [countIn_append hab hbc.le, countIn_of_lt hbc]

/-- Counted forward from `a`, the CLOSEs stay behind the OPENs as long as none of them matches. -/
theorem countIn_close_le_open (hab : a ≤ b) (hnone : ∀ i, a ≤ i → i < b → ¬ ClosesFrom entry a i) :
    countIn entry .loopClose a b ≤ countIn entry .loopOpen a b := by
  induction b, hab using Nat.le_induction with
  | base => simp
  | succ b hab ih =>
    have hle := ih fun i hi hib => hnone i hi (by omega)
    rw [countIn_succ hab, countIn_succ hab]
    by_cases hclose : entry b = .loopClose
    · have hne : countIn entry .loopOpen a b ≠ countIn entry .loopClose a b :=
        fun heq => hnone b hab (Nat.lt_succ_self b) ⟨hclose, heq⟩
      simp only [hclose, if_true]
      omega
    · simp only [hclose, if_false]
      omega

/-- Counted backward from `c`, the OPENs stay behind the CLOSEs as long as none of them matches. -/
theorem countIn_open_le_close (hac : a ≤ c) (hnone : ∀ i, a ≤ i → i < c → ¬ OpensTo entry c i) :
    countIn entry .loopOpen a c ≤ countIn entry .loopClose a c := by
  induction hac using Nat.decreasingInduction with
  | self => simp
  | of_succ a hac ih =>
    have hle := ih fun i hi hic => hnone i (by omega) hic
    rw [countIn_of_lt hac, countIn_of_lt hac]
    by_cases hopen : entry a = .loopOpen
    · have hne : countIn entry .loopClose (a + 1) c ≠ countIn entry .loopOpen (a + 1) c :=
        fun heq => hnone a (Nat.le_refl a) hac ⟨hopen, heq⟩
      simp only [hopen, if_true]
      omega
    · simp only [hopen, if_false]
      omega

/-- R82: an OPEN between the two that matched the CLOSE would leave more CLOSEs than OPENs before it. -/
theorem IsForwardMatch.isBackwardMatch (hopen : entry o = .loopOpen) (h : IsForwardMatch entry L (o + 1) j) :
    IsBackwardMatch entry j o := by
  obtain ⟨hlt, -, ⟨-, hcount⟩, hleast⟩ := h
  refine ⟨hlt, ⟨hopen, hcount.symm⟩, fun i (hoi : o + 1 ≤ i) hij ⟨hi, hinner⟩ => ?_⟩
  have hbefore : countIn entry .loopClose (o + 1) i ≤ countIn entry .loopOpen (o + 1) i :=
    countIn_close_le_open hoi fun m hm hmi => hleast m hm (hmi.trans hij)
  rw [countIn_split hoi hij, countIn_split (x := .loopClose) hoi hij] at hcount
  simp only [hi, if_true, reduceCtorEq, if_false] at hcount
  omega

/-- R82: a CLOSE between the two that matched the OPEN would leave more OPENs than CLOSEs after it. -/
theorem IsBackwardMatch.isForwardMatch (hclose : entry c = .loopClose) (hL : c < L) (h : IsBackwardMatch entry c k) :
    IsForwardMatch entry L (k + 1) c := by
  obtain ⟨hlt, ⟨-, hcount⟩, hgreatest⟩ := h
  refine ⟨hlt, hL, ⟨hclose, hcount.symm⟩, fun i hki hic ⟨hi, hinner⟩ => ?_⟩
  have hafter : countIn entry .loopOpen (i + 1) c ≤ countIn entry .loopClose (i + 1) c :=
    countIn_open_le_close hic fun m hm hmc => hgreatest m (by omega) hmc
  rw [countIn_split hki hic, countIn_split (x := .loopOpen) hki hic] at hcount
  simp only [hi, if_true, reduceCtorEq, if_false] at hcount
  omega

/-- Settles O39: the scans answer the matching functions, and those are symmetric. -/
theorem matchingIsSymmetric : Obligations.MatchingIsSymmetric := by
  refine ⟨fun entry L o j hopen hj hscan => ?_, fun entry L c k hclose hL hscan => ?_⟩
  · have hle := (scanForward_bounds entry (L - (o + 1)) (o + 1) 0).1
    have hmatch := (scanForward_eq_iff_isForwardMatch (by omega)).mp ⟨hscan, hj⟩
    exact scanBackward_eq_some_iff.mpr (hmatch.isBackwardMatch hopen)
  · have hmatch := (scanBackward_eq_some_iff.mp hscan).isForwardMatch hclose hL
    have hlt := (scanBackward_some hscan).1
    exact ((scanForward_eq_iff_isForwardMatch (by omega)).mpr hmatch).1

/-! ### The step at an OPEN and at a CLOSE -/

/-- The next step fetches `i`, with `dp` on the tape. -/
structure FetchesAt (i : Instr) (s : State) : Prop where
  running : s.status = .run
  pc_lt : s.pc < s.progLen
  entry_eq : s.entry s.pc = i
  dp_lt : s.dp < s.tapeSize

namespace FetchesAt

theorem step (h : FetchesAt i s) : Machine.step s = exec i s.advance := by
  rw [step_of_lt h.running h.pc_lt, h.entry_eq]

theorem step_open_enter (h : FetchesAt .loopOpen s) (hcell : s.cell s.dp ≠ 0#8) : Machine.step s = .next s.advance :=
  h.step.trans (exec_loopOpen_of_ne_zero (s := s.advance) h.dp_lt hcell)

theorem step_open_jump (h : FetchesAt .loopOpen s) (hcell : s.cell s.dp = 0#8) :
    Machine.step s = .next (jumpForward s.advance) :=
  h.step.trans (exec_loopOpen_of_zero (s := s.advance) h.dp_lt hcell)

theorem step_close_exit (h : FetchesAt .loopClose s) (hcell : s.cell s.dp = 0#8) : Machine.step s = .next s.advance :=
  h.step.trans (exec_loopClose_of_zero (s := s.advance) h.dp_lt hcell)

theorem step_close_jump (h : FetchesAt .loopClose s) (hcell : s.cell s.dp ≠ 0#8) :
    Machine.step s = .next (jumpBackward s.advance) :=
  h.step.trans (exec_loopClose_of_ne_zero (s := s.advance) h.dp_lt hcell)

end FetchesAt

/-- Settles O42: without a match OPEN's jump ends at `L`, where the next step halts, and CLOSE's jump raises. -/
theorem unbalancedBracketCases : Obligations.UnbalancedBracketCases := by
  intro s hrun hlt hdp
  refine ⟨fun hopen hnone => ⟨fun hcell => ⟨?_, ?_⟩, fun hcell => ?_⟩,
    fun hclose hnone => ⟨fun hcell => ?_, fun hcell => ?_⟩⟩
  · have hjump : jumpForward s.advance = s.advance.setPc s.progLen :=
      jumpForward_of_no_match (s := s.advance) hlt hnone
    exact (FetchesAt.step_open_jump ⟨hrun, hlt, hopen, hdp⟩ hcell).trans (congrArg _ hjump)
  · exact step_of_end (s := s.setPc s.progLen) hrun le_rfl
  · exact FetchesAt.step_open_enter ⟨hrun, hlt, hopen, hdp⟩ hcell
  · exact FetchesAt.step_close_exit ⟨hrun, hlt, hclose, hdp⟩ hcell
  · have hjump : jumpBackward s.advance = s.advance.raiseUnmatchedClose s.pc :=
      jumpBackward_of_no_match (s := s.advance) hnone
    exact (FetchesAt.step_close_jump ⟨hrun, hlt, hclose, hdp⟩ hcell).trans (congrArg _ hjump)

/-! ### A matched loop -/

/-- The core runs with `dp` on the tape a program that holds a loop, an OPEN at `o` with its match at `c`. -/
structure InLoop (o c : Nat) (s : State) : Prop where
  running : s.status = .run
  opens : s.entry o = .loopOpen
  isMatch : IsForwardMatch s.entry s.progLen (o + 1) c
  dp_lt : s.dp < s.tapeSize

namespace InLoop

theorem setPc (h : InLoop o c s) (p : Nat) : InLoop o c (s.setPc p) := { h with }

theorem setTape (h : InLoop o c s) (m : Memory) : InLoop o c (s.setTape m) := { h with }

theorem fetches_open (h : InLoop o c s) (hpc : s.pc = o) : FetchesAt .loopOpen s :=
  have ⟨hlt, hL, _⟩ := h.isMatch
  ⟨h.running, by omega, hpc ▸ h.opens, h.dp_lt⟩

theorem fetches_close (h : InLoop o c s) (hpc : s.pc = c) : FetchesAt .loopClose s :=
  have ⟨_, hL, ⟨hclose, _⟩, _⟩ := h.isMatch
  ⟨h.running, hpc ▸ hL, hpc ▸ hclose, h.dp_lt⟩

/-- R78: the OPEN enters the body. -/
theorem step_enter (h : InLoop o c s) (hpc : s.pc = o) (hcell : s.cell s.dp ≠ 0#8) :
    step s = .next (s.setPc (o + 1)) :=
  hpc ▸ (h.fetches_open hpc).step_open_enter hcell

/-- R78: the OPEN goes to its match. -/
theorem step_skip (h : InLoop o c s) (hpc : s.pc = o) (hcell : s.cell s.dp = 0#8) : step s = .next (s.setPc c) := by
  have hfetch := h.fetches_open hpc
  have hjump : jumpForward s.advance = s.advance.setPc c :=
    jumpForward_of_match (s := s.advance) hfetch.pc_lt (by simpa [hpc] using h.isMatch)
  exact (hfetch.step_open_jump hcell).trans (congrArg _ hjump)

/-- R79: the CLOSE leaves the loop. -/
theorem step_exit (h : InLoop o c s) (hpc : s.pc = c) (hcell : s.cell s.dp = 0#8) :
    step s = .next (s.setPc (c + 1)) :=
  hpc ▸ (h.fetches_close hpc).step_close_exit hcell

/-- R79: the CLOSE goes back to its match, which is the loop's OPEN by R82. -/
theorem step_repeat (h : InLoop o c s) (hpc : s.pc = c) (hcell : s.cell s.dp ≠ 0#8) : step s = .next (s.setPc o) := by
  have hback : IsBackwardMatch s.entry c o := h.isMatch.isBackwardMatch h.opens
  have hjump : jumpBackward s.advance = s.advance.setPc o :=
    jumpBackward_of_match (s := s.advance) (by simpa [closeIndex, hpc] using hback)
  exact ((h.fetches_close hpc).step_close_jump hcell).trans (congrArg _ hjump)

end InLoop

/-- Settles O40: the jump to the CLOSE leaves the cell zero, so the CLOSE leaves the loop. -/
theorem skippedLoopEndsAfterItsClose : Obligations.SkippedLoopEndsAfterItsClose := by
  intro s j hrun _ hopen hdp hcell hmatch
  have hloop : InLoop s.pc j s := ⟨hrun, hopen, hmatch, hdp⟩
  exact ⟨hloop.step_skip rfl hcell, (hloop.setPc j).step_exit rfl hcell⟩

/-- Settles O41: by R82 the CLOSE and its backward match are a loop, whose OPEN finds the cell still non-zero. -/
theorem repeatedLoopReentersAtItsOpen : Obligations.RepeatedLoopReentersAtItsOpen := by
  intro s k hrun hlt hclose hdp hcell hmatch
  have ⟨_, ⟨hopen, _⟩, _⟩ := hmatch
  have hloop : InLoop k s.pc s := ⟨hrun, hopen, hmatch.isForwardMatch hclose hlt, hdp⟩
  exact ⟨hloop.step_repeat rfl hcell, (hloop.setPc k).step_enter rfl hcell⟩

/-! ### The loop of an OPEN, a DEC and a CLOSE -/

theorem ne_zero_of_toNat_eq_succ {w : Byte} (h : w.toNat = n + 1) : w ≠ 0#8 := by
  rintro rfl
  exact Nat.succ_ne_zero n h.symm

/-- A tape on which the current cell of `s` holds the number `n`, and every other cell what it holds in `s`. -/
def Memory.CountsAt (m : Memory) (s : State) (n : Nat) : Prop :=
  (m.read s.dp).toNat = n ∧ ∀ a, a ≠ s.dp → m.read a = s.cell a

theorem Memory.countsAt_write_cellDecrement (hn : (s.cell s.dp).toNat = n + 1) :
    (s.tape.write s.dp (cellDecrement (s.cell s.dp))).CountsAt s n := by
  refine ⟨?_, fun a => Memory.read_write_of_ne⟩
  have hlt := (s.cell s.dp).isLt
  rw [Memory.read_write_self, cellDecrement_toNat, hn]
  omega

/-- R71: a step at a DEC counts a non-zero cell down by one. -/
theorem FetchesAt.step_dec (h : FetchesAt .dec s) (hn : (s.cell s.dp).toNat = n + 1) :
    ∃ m : Memory, Machine.step s = .next (s.advance.setTape m) ∧ m.CountsAt s n :=
  ⟨_, h.step.trans (updateCurrentCell_of_lt (s := s.advance) h.dp_lt), Memory.countsAt_write_cellDecrement hn⟩

/-- The first two steps of an iteration go to the CLOSE with the cell counted down. -/
theorem InLoop.run_open_dec (h : InLoop o (o + 2) s) (hdec : s.entry (o + 1) = .dec) (hpc : s.pc = o)
    (hn : (s.cell s.dp).toNat = n + 1) :
    ∃ m : Memory, m.CountsAt s n ∧
      ∀ i, Host.Core.run core (i + 2) s = Host.Core.run core i ((s.setTape m).setPc (o + 2)) := by
  have henter := h.step_enter hpc (ne_zero_of_toNat_eq_succ hn)
  have hlt : o + 1 < s.progLen := Nat.lt_of_succ_lt ((h.setPc (o + 2)).fetches_close rfl).pc_lt
  have hfetch : FetchesAt .dec (s.setPc (o + 1)) := ⟨h.running, hlt, hdec, h.dp_lt⟩
  obtain ⟨m, hstep, hcounts⟩ := hfetch.step_dec hn
  exact ⟨m, hcounts, fun i => (run_succ_of_next henter (i + 1)).trans (run_succ_of_next hstep i)⟩

/-- As many iterations as the cell's value, three steps each: the last leaves the loop, those before go back to the
OPEN. -/
theorem InLoop.run_dec_loop (h : InLoop o (o + 2) s) (hdec : s.entry (o + 1) = .dec) (hpc : s.pc = o)
    (hn : (s.cell s.dp).toNat = n + 1) :
    ∃ m : Memory, Host.Core.run core (3 * (n + 1)) s = .next ((s.setTape m).setPc (o + 3)) ∧ m.CountsAt s 0 := by
  induction n generalizing s with
  | zero =>
    obtain ⟨m, ⟨hcell, hframe⟩, hrun⟩ := h.run_open_dec hdec hpc hn
    have hexit := ((h.setTape m).setPc (o + 2)).step_exit rfl (BitVec.eq_of_toNat_eq hcell)
    exact ⟨m, (hrun 1).trans (run_succ_of_next hexit 0), hcell, hframe⟩
  | succ n ih =>
    obtain ⟨m, ⟨hcell, hframe⟩, hrun⟩ := h.run_open_dec hdec hpc hn
    have hrepeat := ((h.setTape m).setPc (o + 2)).step_repeat rfl (ne_zero_of_toNat_eq_succ hcell)
    obtain ⟨m', hrest, hzero, hframe'⟩ := ih (s := (s.setTape m).setPc o) ((h.setTape m).setPc o) hdec rfl hcell
    exact ⟨m', (hrun (3 * (n + 1) + 1)).trans ((run_succ_of_next hrepeat _).trans hrest), hzero,
      fun a ha => (hframe' a ha).trans (hframe a ha)⟩

/-- Settles O44: the CLOSE matches the OPEN two indices before it, so the three are a loop. -/
theorem decrementingLoopRunsItsCount : Obligations.DecrementingLoopRunsItsCount := by
  intro s hrun hlt hopen hdec hclose hdp hcell
  have hback : IsBackwardMatch s.entry (s.pc + 2) s.pc :=
    scanBackward_eq_some_iff.mp (by simp [scanBackward, hopen, hdec])
  have hloop : InLoop s.pc (s.pc + 2) s := ⟨hrun, hopen, hback.isForwardMatch hclose hlt, hdp⟩
  obtain ⟨n, hn⟩ : ∃ n, (s.cell s.dp).toNat = n + 1 :=
    Nat.exists_eq_succ_of_ne_zero fun hzero => hcell (BitVec.eq_of_toNat_eq hzero)
  obtain ⟨m, hsteps, hcell, hframe⟩ := hloop.run_dec_loop hdec rfl hn
  exact ⟨(s.setTape m).setPc (s.pc + 3), hn ▸ hsteps, BitVec.eq_of_toNat_eq hcell, hframe, rfl⟩

/-! ### Any loop that decrements its cell -/

theorem step_tapeSize (h : step s = .next t) : t.tapeSize = s.tapeSize := by
  obtain ⟨-, ⟨-, rfl⟩ | ⟨-, hexec⟩⟩ := step_next_cases h
  · rfl
  · obtain ⟨⟨hsize, -⟩, -⟩ := instructionsWriteOnlyTheirOwn _ _ _ hexec
    exact hsize

/-- A run of the body ends in RUN at the CLOSE, with the program and the tape size it began with. -/
theorem BodyRun.keeps (h : BodyRun o c k u v) :
    v.pc = c ∧ v.status = .run ∧ v.entry = u.entry ∧ v.progLen = u.progLen ∧ v.tapeSize = u.tapeSize := by
  induction k generalizing u with
  | zero =>
    obtain ⟨rfl, hpc, hrun⟩ := h
    exact ⟨hpc, hrun, rfl, rfl, rfl⟩
  | succ k ih =>
    obtain ⟨-, -, w, hstep, hrest⟩ := h
    obtain ⟨hpc, hrun, hentry, hlen, hsize⟩ := ih hrest
    obtain ⟨hentry', hlen'⟩ := step_keeps_program hstep
    exact ⟨hpc, hrun, hentry.trans hentry', hlen.trans hlen', hsize.trans (step_tapeSize hstep)⟩

/-- A run of the body with no net move of `dp` stays in the loop. -/
theorem InLoop.bodyRun (h : InLoop o c u) (hbody : BodyRun o c k u v) (hdp : v.dp = u.dp) : InLoop o c v := by
  obtain ⟨-, hrun, hentry, hlen, hsize⟩ := hbody.keeps
  exact ⟨hrun, hentry ▸ h.opens, hentry ▸ hlen ▸ h.isMatch, hdp ▸ hsize ▸ h.dp_lt⟩

/-- R84's premise: from every state in which the loop enters its body, the body's net effect on the controlling cell is
one DEC, and it ends with the `dp` it began with. -/
def BodyDecrements (o c : Nat) (Enters : State → Prop) : Prop :=
  ∀ b, Enters b → ∃ k v, BodyRun o c k b v ∧ v.dp = b.dp ∧ (v.cell v.dp).toNat + 1 = (b.cell b.dp).toNat ∧
    (v.cell v.dp ≠ 0#8 → Enters (v.setPc (o + 1)))

/-- R84: such a loop, entered, runs as many iterations as the cell's value. -/
theorem InLoop.iterations {Enters : State → Prop} (hbody : BodyDecrements o c Enters) (h : InLoop o c s)
    (hpc : s.pc = o) (henters : Enters (s.setPc (o + 1))) (hn : (s.cell s.dp).toNat = n) :
    ∃ t, LoopIterations o c n s t ∧ t.status = .run ∧ t.pc = c + 1 ∧ t.dp = s.dp ∧ t.cell t.dp = 0#8 := by
  induction n generalizing s with
  | zero =>
    obtain ⟨_, _, -, -, hcount, -⟩ := hbody _ henters
    exact absurd (hcount.trans hn) (Nat.succ_ne_zero _)
  | succ n ih =>
    obtain ⟨k, v, hrun, hdp, hcount, hnext⟩ := hbody _ henters
    have henter := h.step_enter hpc (ne_zero_of_toNat_eq_succ hn)
    have hv : InLoop o c v := (h.setPc (o + 1)).bodyRun hrun hdp
    obtain ⟨hvpc, -⟩ := hrun.keeps
    have hvn : (v.cell v.dp).toNat = n := Nat.succ.inj (hcount.trans hn)
    by_cases hz : v.cell v.dp = 0#8
    · obtain rfl : n = 0 := by simpa [hz] using hvn.symm
      exact ⟨v.setPc (c + 1), ⟨hpc, _, k, v, _, henter, rfl, hrun, hv.step_exit hvpc hz, rfl⟩, hv.running,
        rfl, hdp, hz⟩
    · obtain ⟨t, hiter, hstatus, htpc, htdp, hcell⟩ := ih (hv.setPc o) rfl (hnext hz) hvn
      exact ⟨t, ⟨hpc, _, k, v, _, henter, rfl, hrun, hv.step_repeat hvpc hz, hiter⟩, hstatus, htpc,
        htdp.trans hdp, hcell⟩

/-- Settles O57: a loop on a zero cell is skipped as R80 says, and one that decrements its cell iterates as
`InLoop.iterations` says. -/
theorem loopsRunAsOftenAsTheirCellSays : Obligations.LoopsRunAsOftenAsTheirCellSays := by
  intro s c hrun hlt hopen hdp hmatch
  have hloop : InLoop s.pc c s := ⟨hrun, hopen, hmatch, hdp⟩
  exact ⟨fun hcell => skippedLoopEndsAfterItsClose s c hrun hlt hopen hdp hcell hmatch,
    fun _ henters hbody => hloop.iterations hbody rfl henters rfl⟩

end Sys2Proof.Machine

/-! The one exception, UnmatchedClose, and the priority of reset (spec/60_exceptions.md R86 to R88, R90, R91,
spec/70_reset_and_hazards.md R102). -/

namespace Sys2Proof.Machine

variable {s u : State}

/-! ### UnmatchedClose -/

/-- R91: raised in the middle of a step, the exception takes back the fetch's advance of `pc`. -/
theorem State.advance_raiseUnmatchedClose (s : State) :
    s.advance.raiseUnmatchedClose (closeIndex s.advance) =
      { s with status := .fault, cause := .unmatchedClose, faultIndex := s.pc } := rfl

/-- Settles O45: by R83 the step at such a CLOSE raises, and no step starts outside RUN. -/
theorem unmatchedCloseStopsTheCore : Obligations.UnmatchedCloseStopsTheCore := by
  refine ⟨rfl, ?_⟩
  rintro s _ hrun rfl hlt hclose hdp hcell hnone
  obtain ⟨-, hunmatched⟩ := unbalancedBracketCases s hrun hlt hdp
  obtain ⟨-, hraises⟩ := hunmatched hclose hnone
  exact ⟨_, hraises hcell, rfl, fun u hstep => nomatch step_next_run hstep⟩

/-- Settles O46: of the writes an instruction can make only the last one raises, and it is that of a CLOSE. -/
theorem onlyUnmatchedCloseRaises : Obligations.OnlyUnmatchedCloseRaises := by
  refine ⟨⟨rfl, rfl⟩, fun i s t h => ?_⟩
  rcases exec_next_writes h with ⟨-, rfl⟩ | ⟨-, d, rfl⟩ | ⟨-, v, rfl⟩ | ⟨-, rfl⟩ | ⟨-, p, rfl⟩ |
    ⟨hi, hcell, hnone, rfl⟩
  case inr.inr.inr.inr.inr => exact .inr ⟨hi, hcell, scanBackward_eq_none_iff.mp hnone, rfl, rfl, rfl⟩
  all_goals exact .inl ⟨rfl, rfl, rfl⟩

/-- Settles O47: a step starts in RUN, so it ends in FAULT only where the instruction changes `status`. -/
theorem faultIsPrecise : Obligations.FaultIsPrecise := by
  intro s t h hfault
  obtain ⟨hrun, ⟨-, rfl⟩ | ⟨-, hexec⟩⟩ := step_next_cases h
  · exact nomatch hfault
  · rcases exec_status_cases hexec with hsame | ⟨hclose, -, -, ht⟩
    · exact nomatch hfault.symm.trans (hsame.trans hrun)
    · exact ⟨hclose, ht.trans s.advance_raiseUnmatchedClose⟩

/-! ### Reset -/

/-- R102: of the state before it, reset keeps only the capacity and a trace in the unspecified store content. -/
theorem State.afterReset_eq_of_capacity_eq (h : s.capacity = u.capacity) (n : Nat) :
    s.afterReset n = { u.afterReset n with storeFill := (s.afterReset n).storeFill } := by
  simp only [State.afterReset, h]

/-- Settles O7: a reset that is not refused leaves `afterReset`. -/
theorem resetForgetsTheRun : Obligations.ResetForgetsTheRun := by
  intro n s u t v hcapacity hs hu
  obtain ⟨-, rfl⟩ := resetCore_next hs
  obtain ⟨-, rfl⟩ := resetCore_next hu
  exact ⟨State.afterReset_eq_of_capacity_eq hcapacity n, s.afterReset_store n⟩

end Sys2Proof.Machine

/-! The wait for the output sink, the reset event, and the refused configurations (spec/70_reset_and_hazards.md R99,
R101, R106). -/

namespace Sys2Proof.Machine

variable {s : State} {e : PortEvent} {len : Nat} {source : List CodePoint}

/-! ### The wait for the sink -/

/-- An event is offered at an OUT in RUN below `L` only. -/
theorem State.outOffer_of_not_output (h : s.status ≠ .run ∨ s.progLen ≤ s.pc ∨ s.entry s.pc ≠ .output) :
    s.outOffer = none := by
  refine if_neg fun ⟨hrun, hlt, hout⟩ => ?_
  rcases h with hstatus | hend | hother
  · exact hstatus hrun
  · exact Nat.not_lt_of_le hend hlt
  · exact hother hout

/-- While no event is offered the turn is the step, whatever the level of `out_ready`. -/
theorem onEvent_turn_of_no_offer (hoffer : s.outOffer = none) (ready : Bool) : onEvent (.turn ready) s = step s := by
  simp [onEvent, turnCore, hoffer]

theorem runEvents_singleton (e : PortEvent) (s : State) : runEvents [e] s = onEvent e s := by
  unfold runEvents
  cases onEvent e s <;> rfl

/-- An event that leaves the state as it is may come any number of times before the others. -/
theorem runEvents_replicate_append (h : onEvent e s = .next s) (k : Nat) (rest : List PortEvent) :
    runEvents (List.replicate k e ++ rest) s = runEvents rest s := by
  induction k with
  | zero => rfl
  | succ k ih => exact (runEvents_cons_of_next h).trans ih

/-- Settles O49: a turn that waits leaves the state, so by induction on their number the turns before the last one do;
a turn waits only where an event is offered. -/
theorem outReadyOnlyDelays : Obligations.OutReadyOnlyDelays := by
  refine fun s => ⟨onEvent_turn_ready s, fun hrun hlt hout => ?_, fun hother => ?_⟩
  · have hoffer := State.outOffer_of_output hrun hlt hout
    have hwait : onEvent (.turn false) s = .next s := onEvent_turn_of_wait hoffer
    refine ⟨by simp [hoffer], hwait, fun k => ?_⟩
    calc runEvents (List.replicate k (.turn false) ++ [.turn true]) s
      _ = runEvents [.turn true] s := runEvents_replicate_append hwait k _
      _ = onEvent (.turn true) s := runEvents_singleton _ s
      _ = step s := onEvent_turn_ready s
  · have hnone := State.outOffer_of_not_output hother
    exact ⟨hnone, onEvent_turn_of_no_offer hnone false⟩

/-! ### Reset -/

@[simp] theorem State.afterReset_cell (s : State) (n a : Nat) : (s.afterReset n).cell a = 0#8 := Memory.read_nil a

/-- Settles O6: the registers are the fields of `afterReset`; its status is IDLE, so it offers no event and no step
starts there. -/
theorem resetEventGivesResetState : Obligations.ResetEventGivesResetState := by
  intro n s hn
  have hidle : (s.afterReset n).status ≠ .run := by simp
  exact ⟨s.afterReset n, onEvent_reset_of_pos hn, rfl, s.afterReset_cell n, rfl, rfl, rfl, rfl, rfl, rfl,
    State.outOffer_of_not_output (.inl hidle), fun _ hstep => hidle (step_next_run hstep)⟩

/-! ### Refused configurations -/

theorem onEvent_reset_zero (s : State) : onEvent (.reset 0) s = .refused .zeroTapeSize := rfl

theorem construct_zero (source : List CodePoint) (s : State) : construct 0 source s = .refused .zeroTapeSize := rfl

theorem construct_of_too_long {n : Nat} (hn : 0 < n) (hlong : s.capacity < source.length) :
    construct n source s = .refused (.programTooLong source.length s.capacity) := by
  simp [construct, tapeSizeLegal, programFits, Nat.ne_of_gt hn, hlong]

/-- The case of `startRun_cases` that a `start` above the capacity takes. -/
theorem startRun_of_too_long (hlong : s.capacity < len) : startRun len s = s :=
  (startRun_cases len s).resolve_right fun ⟨_, _, hlen, _⟩ => Nat.not_lt_of_le hlen hlong

/-- R101: RUN is entered by a start only, and that one checks the configuration. -/
theorem configLegal_of_enters_run {t : State} (h : onEvent e s = .next t) (hbefore : s.status ≠ .run)
    (hafter : t.status = .run) : 0 < t.tapeSize ∧ t.progLen ≤ t.capacity := by
  rcases onEvent_next_cases h with rfl | ⟨n, -, -, rfl⟩ | ⟨addr, c, -, -, -, rfl⟩ | ⟨len, -, -, hsize, hlen, rfl⟩ |
    ⟨ready, -, hstep⟩
  · exact absurd hafter hbefore
  · exact nomatch hafter
  · exact absurd hafter hbefore
  · exact ⟨hsize, hlen⟩
  · exact absurd (step_next_run hstep) hbefore

/-- Settles O13: each refusal or ignored event is the branch its check guards, and only a start that passes the check
enters RUN. -/
theorem illegalConfigurationsAreRefused : Obligations.IllegalConfigurationsAreRefused :=
  ⟨onEvent_reset_zero, construct_zero, fun _ _ _ => construct_of_too_long,
    fun _ _ _ haddr => congrArg Host.Outcome.next (loadEntry_of_ignored (.inr haddr)),
    fun _ _ _ hlong => congrArg Host.Outcome.next (startRun_of_too_long hlong),
    fun _ _ _ => configLegal_of_enters_run⟩

end Sys2Proof.Machine
